-- ==== Sys2Proof/Word.lean ====
section
/-!
DEFINITION. The word types of GOLCORE-1: a command or response word is 64 bits (30_encoding R90).
-/

namespace Sys2Proof

/-- A command word or the VALUE of a response: one 64-bit word (R90). -/
abbrev Word := BitVec 64

/-- One byte of a word as a platform carries it (R15). -/
abbrev Byte := BitVec 8

end Sys2Proof
end

