-- ==== Sys2Proof/Config.lean ====
section
/-!
DEFINITION. The implementation parameters (00_scope R10 to R13, R15) and the free values the spec leaves open:
the random source RNG (R14, R44) and the unspecified BREG (R47, R181).
-/

namespace Sys2Proof

/-- HOST_BYTE_ORDER (R15): how a platform carries the bytes of a 64-bit word, if it carries them as bytes.
DESIGN CHOICE (log 13): the two usual orders. No rule of the block depends on it. -/
inductive ByteOrder where
  /-- bits 7:0 of the word are the first byte -/
  | littleEndian
  /-- bits 63:56 of the word are the first byte -/
  | bigEndian
deriving DecidableEq, Repr

/-- The implementation parameters of 00_scope section 3, which "the model takes ... as an argument". -/
structure Params where
  /-- `W`, the width of a backing word (R10) -/
  wordWidth : Nat
  /-- `MAX_WIDTH` (R11) -/
  maxWidth : Nat
  /-- `MAX_HEIGHT` (R11) -/
  maxHeight : Nat
  /-- `NT`, the number of scratch slots (R12) -/
  numScratch : Nat
  /-- `TW`, the width of the generation counter (R13) -/
  timeWidth : Nat
  /-- `HOST_BYTE_ORDER` (R15) -/
  hostByteOrder : ByteOrder
deriving DecidableEq, Repr

/-- The legal values of the parameters (R10 to R13). -/
abbrev Params.Legal (p : Params) : Prop :=
  1 ≤ p.wordWidth ∧
  3 ≤ p.maxWidth ∧ p.maxWidth ≤ 2 ^ 20 - 1 ∧
  3 ≤ p.maxHeight ∧ p.maxHeight ≤ 2 ^ 20 - 1 ∧
  11 ≤ p.numScratch ∧ p.numScratch ≤ 2 ^ 20 - 1 ∧
  1 ≤ p.timeWidth ∧ p.timeWidth ≤ 64

/-- The parameters of the state after reset: the spec's defaults for `W`, `NT`, `TW` (R10, R12, R13) and, for the
OPEN ones, `MAX_WIDTH = MAX_HEIGHT = 1023` as the conventions of 95_test_vectors.md take them and the little-endian
order. DESIGN CHOICE (log 1): unsafe for a claim that rests on these values; every other set of legal values is a
state of the model too. -/
def Params.standard : Params where
  wordWidth := 64
  maxWidth := 1023
  maxHeight := 1023
  numScratch := 16
  timeWidth := 64
  hostByteOrder := .littleEndian

/-- `Draw(n)`: the `k`-th draw of the random source, an arbitrary `n`-bit value (R14, R44). A free value: it has no
body, so a claim about it holds for every value drawn (log 5). -/
opaque Config.drawBits (k n : Nat) : BitVec n

/-- The value BREG holds after a host command that uses the row port (R47, R181): unspecified, a free value (log 6). -/
opaque Config.unspecifiedBreg (k : Nat) : Bool

end Sys2Proof
end

