-- ==== Sys2Proof/Syntax.lean ====
section
/-!
DEFINITION. The commands of GOLCORE-1 (30_encoding R98), one constructor per row of spec/opcode_table.json, and the
names their operands are made of.
-/

namespace Sys2Proof

/-- The two ports (00_scope R4): the host port, driven by the external driver, and the row port, driven by the block's
own sequencer only. -/
inductive Port where
  | host
  | row
deriving DecidableEq, Repr

/-- The neighborhood of a grid, the register NBH (R34): 0 = vonNeumann, 1 = moore. -/
inductive Neighborhood where
  | vonNeumann
  | moore
deriving DecidableEq, Repr

/-- The row address spaces (R60): the grid rows G = 0, the next-generation buffer N = 1, the scratch rows T = 2. Number 3
is reserved and is no space. -/
inductive Space where
  | g
  | n
  | t
deriving DecidableEq, Repr

/-- A row slot `(sp, i)`, written `G[i]`, `N[i]` or `T[i]` (R60). -/
structure Slot where
  space : Space
  index : Nat
deriving DecidableEq, Repr

/-- The value operand of ROW_SET (R97): the V field (`VS = 0`) or the register BREG (`VS = 1`). -/
inductive BitSource where
  | imm (v : Bool)
  | breg
deriving DecidableEq, Repr

/-- The commands. The first twelve are the host port's, the others the row port's (R98). Numeric operands are the
unsigned integers of the 20-bit fields A, B, DI, SI, IMM (R92, R97). -/
inductive Instr where
  /-- CREATE width, height, nbh (R180) -/
  | create (width height : Nat) (nbh : Neighborhood)
  /-- CLEAR (R184) -/
  | clear
  /-- PUT_RANDOM (R186) -/
  | putRandom
  /-- PUT_FIXED_SEED (R188) -/
  | putFixedSeed
  /-- ADVANCE (R266) -/
  | advance
  /-- GET_CELL x, y (R190) -/
  | getCell (x y : Nat)
  /-- SET_CELL x, y, v (R192) -/
  | setCell (x y : Nat) (v : Bool)
  /-- READ_GEN (R194) -/
  | readGen
  /-- READ_WIDTH (R195) -/
  | readWidth
  /-- READ_HEIGHT (R196) -/
  | readHeight
  /-- READ_STATUS (R197) -/
  | readStatus
  /-- READ_FCMD (R198) -/
  | readFcmd
  /-- ROW_CREATE d, count (R134) -/
  | rowCreate (d : Slot) (count : Nat)
  /-- ROW_RANDOM d, count (R136) -/
  | rowRandom (d : Slot) (count : Nat)
  /-- ROW_GET d, idx (R140) -/
  | rowGet (d : Slot) (idx : Nat)
  /-- ROW_SET d, idx, v (R141) -/
  | rowSet (d : Slot) (idx : Nat) (v : BitSource)
  /-- ROW_CLEAR d (R143) -/
  | rowClear (d : Slot)
  /-- ROW_AND d, src (R145) -/
  | rowAnd (d src : Slot)
  /-- ROW_OR d, src (R146) -/
  | rowOr (d src : Slot)
  /-- ROW_XOR d, src (R147) -/
  | rowXor (d src : Slot)
  /-- ROW_NOT d, src (R148) -/
  | rowNot (d src : Slot)
  /-- ROW_COPY d, src (R150) -/
  | rowCopy (d src : Slot)
  /-- ROW_SHL d, amount (R153) -/
  | rowShl (d : Slot) (amount : Nat)
  /-- ROW_SHR d, amount (R154) -/
  | rowShr (d : Slot) (amount : Nat)
deriving DecidableEq, Repr

/-- The assigned opcodes (R98), named by their mnemonics. -/
inductive Opcode where
  | create | clear | putRandom | putFixedSeed | advance | getCell | setCell
  | readGen | readWidth | readHeight | readStatus | readFcmd
  | rowCreate | rowRandom | rowGet | rowSet | rowClear | rowAnd | rowOr | rowXor | rowNot | rowCopy | rowShl | rowShr
deriving DecidableEq, Repr

/-- The opcode a command is encoded with (R98). -/
def Instr.opcode : Instr → Opcode
  | .create _ _ _ => .create
  | .clear => .clear
  | .putRandom => .putRandom
  | .putFixedSeed => .putFixedSeed
  | .advance => .advance
  | .getCell _ _ => .getCell
  | .setCell _ _ _ => .setCell
  | .readGen => .readGen
  | .readWidth => .readWidth
  | .readHeight => .readHeight
  | .readStatus => .readStatus
  | .readFcmd => .readFcmd
  | .rowCreate _ _ => .rowCreate
  | .rowRandom _ _ => .rowRandom
  | .rowGet _ _ => .rowGet
  | .rowSet _ _ _ => .rowSet
  | .rowClear _ => .rowClear
  | .rowAnd _ _ => .rowAnd
  | .rowOr _ _ => .rowOr
  | .rowXor _ _ => .rowXor
  | .rowNot _ _ => .rowNot
  | .rowCopy _ _ => .rowCopy
  | .rowShl _ _ => .rowShl
  | .rowShr _ _ => .rowShr

/-- The fault codes' names (60_exceptions R301). -/
inductive FaultCode where
  /-- reserved opcode, nonzero reserved field, space field 3, ROW_SET with VS = V = 1, host opcode on the row port -/
  | illegalCommand
  /-- a command that needs a grid while CREATED = 0 -/
  | notCreated
  /-- CREATE while CREATED = 1 -/
  | alreadyCreated
  /-- a width, height or count of 0 or above its maximum -/
  | badDimension
  /-- a cell coordinate, bit index or slot index out of range; PUT_FIXED_SEED on a grid narrower or lower than 3 -/
  | indexRange
  /-- two operands of different counts; a row whose count is not WIDTH for a G or N slot -/
  | countMismatch
  /-- a shift amount `k` with `k = 0` or `k > W` -/
  | shiftRange
  /-- a read of an N or T slot that is invalid -/
  | unallocatedRow
  /-- a row opcode received on the host port -/
  | rowPortPrivilege
  /-- ADVANCE while TIME = 2^TW - 1 -/
  | timeOverflow
deriving DecidableEq, Repr

end Sys2Proof
end

