-- ==== Sys2Proof/WellFormed.lean ====
section
/-!
DEFINITION. The well-formed commands: every numeric operand is a value of its 20-bit field (30_encoding R92). A reserved
space number and ROW_SET with VS = V = 1 (R101) are not terms of `Instr` at all: the decoder refuses their words.
-/

namespace Sys2Proof

/-- The value fits a 20-bit field: it lies in `[0, 2^20 - 1]` (R92). -/
def fitsField (v : Nat) : Bool := decide (v < 2 ^ 20)

/-- The index of a slot operand fits the DI or SI field (R92). -/
def Slot.wellFormed (d : Slot) : Bool := fitsField d.index

/-- A command whose every operand its encoding can carry (R92, R97). -/
def Instr.wellFormed : Instr → Bool
  | .create w h _ => fitsField w && fitsField h
  | .clear => true
  | .putRandom => true
  | .putFixedSeed => true
  | .advance => true
  | .getCell x y => fitsField x && fitsField y
  | .setCell x y _ => fitsField x && fitsField y
  | .readGen => true
  | .readWidth => true
  | .readHeight => true
  | .readStatus => true
  | .readFcmd => true
  | .rowCreate d count => d.wellFormed && fitsField count
  | .rowRandom d count => d.wellFormed && fitsField count
  | .rowGet d idx => d.wellFormed && fitsField idx
  | .rowSet d idx _ => d.wellFormed && fitsField idx
  | .rowClear d => d.wellFormed
  | .rowAnd d src => d.wellFormed && src.wellFormed
  | .rowOr d src => d.wellFormed && src.wellFormed
  | .rowXor d src => d.wellFormed && src.wellFormed
  | .rowNot d src => d.wellFormed && src.wellFormed
  | .rowCopy d src => d.wellFormed && src.wellFormed
  | .rowShl d k => d.wellFormed && fitsField k
  | .rowShr d k => d.wellFormed && fitsField k

end Sys2Proof
end

