-- ==== Sys2Proof/Decode.lean ====
section
/-!
DEFINITION. Decoding and encoding of command words (30_encoding). The fields of R91 to R97, the opcode map of R98, the
match and mask table of R99, the decoder of R103, total on every word, and the encoder.
-/

namespace Sys2Proof

/-! ### The opcode map (R98, R99) -/

/-- The format of a command word (R91, R93, R95, R96). -/
inductive Format where
  | h
  | r
  | ri
  | r1
deriving DecidableEq, Repr

/-- The opcode field's value of each command (R98). -/
def Opcode.bits : Opcode → BitVec 6
  | .create => 0x01#6
  | .clear => 0x02#6
  | .putRandom => 0x03#6
  | .putFixedSeed => 0x04#6
  | .advance => 0x05#6
  | .getCell => 0x06#6
  | .setCell => 0x07#6
  | .readGen => 0x08#6
  | .readWidth => 0x09#6
  | .readHeight => 0x0a#6
  | .readStatus => 0x0b#6
  | .readFcmd => 0x0c#6
  | .rowCreate => 0x10#6
  | .rowRandom => 0x11#6
  | .rowGet => 0x12#6
  | .rowSet => 0x13#6
  | .rowClear => 0x14#6
  | .rowAnd => 0x15#6
  | .rowOr => 0x16#6
  | .rowXor => 0x17#6
  | .rowNot => 0x18#6
  | .rowCopy => 0x19#6
  | .rowShl => 0x1a#6
  | .rowShr => 0x1b#6

/-- The command an opcode field selects; `none` for the reserved opcodes 0x00, 0x0D to 0x0F and 0x1C to 0x3F (R98, R100). -/
def opcodeOfBits (b : BitVec 6) : Option Opcode :=
  match b.toNat with
  | 0x01 => some .create
  | 0x02 => some .clear
  | 0x03 => some .putRandom
  | 0x04 => some .putFixedSeed
  | 0x05 => some .advance
  | 0x06 => some .getCell
  | 0x07 => some .setCell
  | 0x08 => some .readGen
  | 0x09 => some .readWidth
  | 0x0a => some .readHeight
  | 0x0b => some .readStatus
  | 0x0c => some .readFcmd
  | 0x10 => some .rowCreate
  | 0x11 => some .rowRandom
  | 0x12 => some .rowGet
  | 0x13 => some .rowSet
  | 0x14 => some .rowClear
  | 0x15 => some .rowAnd
  | 0x16 => some .rowOr
  | 0x17 => some .rowXor
  | 0x18 => some .rowNot
  | 0x19 => some .rowCopy
  | 0x1A => some .rowShl
  | 0x1B => some .rowShr
  | _ => none

/-- The port that accepts a command (R98). -/
def Opcode.port : Opcode → Port
  | .create => .host
  | .clear => .host
  | .putRandom => .host
  | .putFixedSeed => .host
  | .advance => .host
  | .getCell => .host
  | .setCell => .host
  | .readGen => .host
  | .readWidth => .host
  | .readHeight => .host
  | .readStatus => .host
  | .readFcmd => .host
  | .rowCreate => .row
  | .rowRandom => .row
  | .rowGet => .row
  | .rowSet => .row
  | .rowClear => .row
  | .rowAnd => .row
  | .rowOr => .row
  | .rowXor => .row
  | .rowNot => .row
  | .rowCopy => .row
  | .rowShl => .row
  | .rowShr => .row

/-- The format of a command (R98). -/
def Opcode.format : Opcode → Format
  | .create => .h
  | .clear => .h
  | .putRandom => .h
  | .putFixedSeed => .h
  | .advance => .h
  | .getCell => .h
  | .setCell => .h
  | .readGen => .h
  | .readWidth => .h
  | .readHeight => .h
  | .readStatus => .h
  | .readFcmd => .h
  | .rowCreate => .ri
  | .rowRandom => .ri
  | .rowGet => .ri
  | .rowSet => .ri
  | .rowClear => .r1
  | .rowAnd => .r
  | .rowOr => .r
  | .rowXor => .r
  | .rowNot => .r
  | .rowCopy => .r
  | .rowShl => .ri
  | .rowShr => .ri

/-- The mask of a command: a 1 in every bit that is not a field it uses (the table of R99). -/
def Opcode.mask : Opcode → Word
  | .create => 0xFEFFFF0000000000#64
  | .clear => 0xFFFFFFFFFFFFFFFF#64
  | .putRandom => 0xFFFFFFFFFFFFFFFF#64
  | .putFixedSeed => 0xFFFFFFFFFFFFFFFF#64
  | .advance => 0xFFFFFFFFFFFFFFFF#64
  | .getCell => 0xFFFFFF0000000000#64
  | .setCell => 0xFDFFFF0000000000#64
  | .readGen => 0xFFFFFFFFFFFFFFFF#64
  | .readWidth => 0xFFFFFFFFFFFFFFFF#64
  | .readHeight => 0xFFFFFFFFFFFFFFFF#64
  | .readStatus => 0xFFFFFFFFFFFFFFFF#64
  | .readFcmd => 0xFFFFFFFFFFFFFFFF#64
  | .rowCreate => 0xFFC00000FFF00000#64
  | .rowRandom => 0xFFC00000FFF00000#64
  | .rowGet => 0xFFC00000FFF00000#64
  | .rowSet => 0xFCC00000FFF00000#64
  | .rowClear => 0xFFC00000FFFFFFFF#64
  | .rowAnd => 0xFFC00000FFC00000#64
  | .rowOr => 0xFFC00000FFC00000#64
  | .rowXor => 0xFFC00000FFC00000#64
  | .rowNot => 0xFFC00000FFC00000#64
  | .rowCopy => 0xFFC00000FFC00000#64
  | .rowShl => 0xFFC00000FFF00000#64
  | .rowShr => 0xFFC00000FFF00000#64

/-- The match of a command (the table of R99). -/
def Opcode.matchWord : Opcode → Word
  | .create => 0x0400000000000000#64
  | .clear => 0x0800000000000000#64
  | .putRandom => 0x0C00000000000000#64
  | .putFixedSeed => 0x1000000000000000#64
  | .advance => 0x1400000000000000#64
  | .getCell => 0x1800000000000000#64
  | .setCell => 0x1C00000000000000#64
  | .readGen => 0x2000000000000000#64
  | .readWidth => 0x2400000000000000#64
  | .readHeight => 0x2800000000000000#64
  | .readStatus => 0x2C00000000000000#64
  | .readFcmd => 0x3000000000000000#64
  | .rowCreate => 0x4000000000000000#64
  | .rowRandom => 0x4400000000000000#64
  | .rowGet => 0x4800000000000000#64
  | .rowSet => 0x4C00000000000000#64
  | .rowClear => 0x5000000000000000#64
  | .rowAnd => 0x5400000000000000#64
  | .rowOr => 0x5800000000000000#64
  | .rowXor => 0x5C00000000000000#64
  | .rowNot => 0x6000000000000000#64
  | .rowCopy => 0x6400000000000000#64
  | .rowShl => 0x6800000000000000#64
  | .rowShr => 0x6C00000000000000#64

/-! ### Fields (R91, R93, R95 to R97)

Every field is an unsigned integer, zero-extended, with no scaling (R97). -/

/-- OPC = w[63:58]. -/
def fieldOpc (w : Word) : BitVec 6 := w.extractLsb' 58 6

/-- V = w[57]. -/
def fieldV (w : Word) : Bool := w.getLsbD 57

/-- NB = w[56], which is also where format RI has VS. -/
def fieldNb (w : Word) : Bool := w.getLsbD 56

/-- VS = w[56]. -/
def fieldVs (w : Word) : Bool := w.getLsbD 56

/-- A = w[39:20]. -/
def fieldA (w : Word) : Nat := (w.extractLsb' 20 20).toNat

/-- B = w[19:0]. -/
def fieldB (w : Word) : Nat := (w.extractLsb' 0 20).toNat

/-- DSP = w[53:52]. -/
def fieldDsp (w : Word) : BitVec 2 := w.extractLsb' 52 2

/-- DI = w[51:32]. -/
def fieldDi (w : Word) : Nat := (w.extractLsb' 32 20).toNat

/-- SSP = w[21:20]. -/
def fieldSsp (w : Word) : BitVec 2 := w.extractLsb' 20 2

/-- SI = w[19:0]. -/
def fieldSi (w : Word) : Nat := (w.extractLsb' 0 20).toNat

/-- IMM = w[19:0]. -/
def fieldImm (w : Word) : Nat := (w.extractLsb' 0 20).toNat

/-- The space a space field selects; `none` for the reserved number 3 (R94). -/
def spaceOfBits (b : BitVec 2) : Option Space :=
  match b.toNat with
  | 0 => some .g
  | 1 => some .n
  | 2 => some .t
  | _ => none

/-- The number of a space (R94). -/
def Space.bits : Space → BitVec 2
  | .g => 0#2
  | .n => 1#2
  | .t => 2#2

/-- The neighborhood an NB bit selects: 0 = vonNeumann, 1 = moore (R91). -/
def neighborhoodOfBit (b : Bool) : Neighborhood := if b then .moore else .vonNeumann

/-- The NB bit of a neighborhood (R91, R34). -/
def Neighborhood.bit : Neighborhood → Bool
  | .vonNeumann => false
  | .moore => true

/-- The value operand of ROW_SET: V if VS = 0, BREG if VS = 1 (R97). -/
def bitSourceOf (v vs : Bool) : BitSource := if vs then .breg else .imm v

/-! ### The decoder (R103) -/

/-- The command with the opcode `op` and the fields of `w`, with the checks that match and mask do not express: a space
field of 3 (R94) and ROW_SET with VS = 1 and V = 1 (R101). -/
def fieldsOf (op : Opcode) (w : Word) : Except FaultCode Instr :=
  let dslot : Except FaultCode Slot :=
    match spaceOfBits (fieldDsp w) with
    | some sp => .ok ⟨sp, fieldDi w⟩
    | none => .error .illegalCommand
  let sslot : Except FaultCode Slot :=
    match spaceOfBits (fieldSsp w) with
    | some sp => .ok ⟨sp, fieldSi w⟩
    | none => .error .illegalCommand
  let two (mk : Slot → Slot → Instr) : Except FaultCode Instr :=
    match dslot, sslot with
    | .ok d, .ok src => .ok (mk d src)
    | _, _ => .error .illegalCommand
  let imm (mk : Slot → Nat → Instr) : Except FaultCode Instr :=
    match dslot with
    | .ok d => .ok (mk d (fieldImm w))
    | _ => .error .illegalCommand
  match op with
  | .create => .ok (.create (fieldA w) (fieldB w) (neighborhoodOfBit (fieldNb w)))
  | .clear => .ok .clear
  | .putRandom => .ok .putRandom
  | .putFixedSeed => .ok .putFixedSeed
  | .advance => .ok .advance
  | .getCell => .ok (.getCell (fieldA w) (fieldB w))
  | .setCell => .ok (.setCell (fieldA w) (fieldB w) (fieldV w))
  | .readGen => .ok .readGen
  | .readWidth => .ok .readWidth
  | .readHeight => .ok .readHeight
  | .readStatus => .ok .readStatus
  | .readFcmd => .ok .readFcmd
  | .rowCreate => imm .rowCreate
  | .rowRandom => imm .rowRandom
  | .rowGet => imm .rowGet
  | .rowSet =>
    if fieldVs w && fieldV w then .error .illegalCommand
    else imm fun d i => .rowSet d i (bitSourceOf (fieldV w) (fieldVs w))
  | .rowClear =>
    match dslot with
    | .ok d => .ok (.rowClear d)
    | _ => .error .illegalCommand
  | .rowAnd => two .rowAnd
  | .rowOr => two .rowOr
  | .rowXor => two .rowXor
  | .rowNot => two .rowNot
  | .rowCopy => two .rowCopy
  | .rowShl => imm .rowShl
  | .rowShr => imm .rowShr

/-- The decoder of R103: total on every 64-bit word, it returns a command with its fields or the fault. A reserved opcode
is illegal on both ports (R100); a row opcode on the host port is ROW_PORT_PRIVILEGE and a host opcode on the row port is
ILLEGAL_COMMAND (R102); then the must-be-zero bits (R99), the space fields and ROW_SET (R101). -/
def decode (port : Port) (w : Word) : Except FaultCode Instr :=
  match opcodeOfBits (fieldOpc w) with
  | none => .error .illegalCommand
  | some op =>
    if op.port = port then
      if w &&& op.mask = op.matchWord then fieldsOf op w else .error .illegalCommand
    else
      match port with
      | .host => .error .rowPortPrivilege
      | .row => .error .illegalCommand

/-- The port on which a word is a command if it is one: the row port for the opcodes 0x10 to 0x1B, else the host port
(R98). -/
def portOfWord (w : Word) : Port :=
  match opcodeOfBits (fieldOpc w) with
  | some op => op.port
  | none => .host

/-- The instruction the decoder reads from a table word (bit 0 the least significant bit of the command's one 64-bit word,
R90), on the port its opcode belongs to (log 14). -/
def decodeTableWord (nbits w : Nat) : Option Instr :=
  let word : Word := BitVec.ofNat 64 (w % 2 ^ nbits)
  match decode (portOfWord word) word with
  | .ok i => some i
  | .error _ => none

/-! ### The encoder (R91 to R97) -/

/-- Format H (R91). -/
def encodeH (op : BitVec 6) (v nb : Bool) (a b : Nat) : Word :=
  (op ++ BitVec.ofBool v ++ BitVec.ofBool nb ++ 0#16 ++ BitVec.ofNat 20 a ++ BitVec.ofNat 20 b :
    BitVec (6 + 1 + 1 + 16 + 20 + 20))

/-- Format R (R93). -/
def encodeR (op : BitVec 6) (d src : Slot) : Word :=
  (op ++ 0#4 ++ d.space.bits ++ BitVec.ofNat 20 d.index ++ 0#10 ++ src.space.bits ++ BitVec.ofNat 20 src.index :
    BitVec (6 + 4 + 2 + 20 + 10 + 2 + 20))

/-- Format RI (R95). -/
def encodeRI (op : BitVec 6) (v vs : Bool) (d : Slot) (imm : Nat) : Word :=
  (op ++ BitVec.ofBool v ++ BitVec.ofBool vs ++ 0#2 ++ d.space.bits ++ BitVec.ofNat 20 d.index ++ 0#12
      ++ BitVec.ofNat 20 imm : BitVec (6 + 1 + 1 + 2 + 2 + 20 + 12 + 20))

/-- Format R1 (R96). -/
def encodeR1 (op : BitVec 6) (d : Slot) : Word :=
  (op ++ 0#4 ++ d.space.bits ++ BitVec.ofNat 20 d.index ++ 0#32 : BitVec (6 + 4 + 2 + 20 + 32))

/-- The V field of a ROW_SET value operand (R105: `v` = 0 or 1 has VS = 0 and V = v, `v` = B has VS = 1 and V = 0). -/
def BitSource.v : BitSource → Bool
  | .imm b => b
  | .breg => false

/-- The VS field of a ROW_SET value operand (R105). -/
def BitSource.vs : BitSource → Bool
  | .imm _ => false
  | .breg => true

/-- The word of a command (R91 to R98). -/
def encode : Instr → Word
  | .create w h nbh => encodeH Opcode.create.bits false nbh.bit w h
  | .clear => encodeH Opcode.clear.bits false false 0 0
  | .putRandom => encodeH Opcode.putRandom.bits false false 0 0
  | .putFixedSeed => encodeH Opcode.putFixedSeed.bits false false 0 0
  | .advance => encodeH Opcode.advance.bits false false 0 0
  | .getCell x y => encodeH Opcode.getCell.bits false false x y
  | .setCell x y v => encodeH Opcode.setCell.bits v false x y
  | .readGen => encodeH Opcode.readGen.bits false false 0 0
  | .readWidth => encodeH Opcode.readWidth.bits false false 0 0
  | .readHeight => encodeH Opcode.readHeight.bits false false 0 0
  | .readStatus => encodeH Opcode.readStatus.bits false false 0 0
  | .readFcmd => encodeH Opcode.readFcmd.bits false false 0 0
  | .rowCreate d count => encodeRI Opcode.rowCreate.bits false false d count
  | .rowRandom d count => encodeRI Opcode.rowRandom.bits false false d count
  | .rowGet d idx => encodeRI Opcode.rowGet.bits false false d idx
  | .rowSet d idx v => encodeRI Opcode.rowSet.bits v.v v.vs d idx
  | .rowClear d => encodeR1 Opcode.rowClear.bits d
  | .rowAnd d src => encodeR Opcode.rowAnd.bits d src
  | .rowOr d src => encodeR Opcode.rowOr.bits d src
  | .rowXor d src => encodeR Opcode.rowXor.bits d src
  | .rowNot d src => encodeR Opcode.rowNot.bits d src
  | .rowCopy d src => encodeR Opcode.rowCopy.bits d src
  | .rowShl d k => encodeRI Opcode.rowShl.bits false false d k
  | .rowShr d k => encodeRI Opcode.rowShr.bits false false d k

/-! ### Words as bytes on a platform (R15, R66) -/

/-- The eight bytes of a word, least significant first. -/
def bytesLsbFirst (w : Word) : List Byte :=
  [w.extractLsb' 0 8, w.extractLsb' 8 8, w.extractLsb' 16 8, w.extractLsb' 24 8,
   w.extractLsb' 32 8, w.extractLsb' 40 8, w.extractLsb' 48 8, w.extractLsb' 56 8]

/-- The bytes of a command or response word in the order HOST_BYTE_ORDER carries them (R15; log 13). -/
def bytesOfWord (order : ByteOrder) (w : Word) : List Byte :=
  match order with
  | .littleEndian => bytesLsbFirst w
  | .bigEndian => (bytesLsbFirst w).reverse

/-- The word eight bytes carry, least significant byte first; `none` for another number of bytes (R90: a command is one
64-bit word). -/
def wordOfBytesLsbFirst : List Byte → Option Word
  | [b0, b1, b2, b3, b4, b5, b6, b7] =>
    some (b7 ++ b6 ++ b5 ++ b4 ++ b3 ++ b2 ++ b1 ++ b0 : BitVec (8 + 8 + 8 + 8 + 8 + 8 + 8 + 8))
  | _ => none

/-- The word the bytes carry in the order HOST_BYTE_ORDER (R15; log 13). -/
def wordOfBytes (order : ByteOrder) (bytes : List Byte) : Option Word :=
  match order with
  | .littleEndian => wordOfBytesLsbFirst bytes
  | .bigEndian => wordOfBytesLsbFirst bytes.reverse

end Sys2Proof
end

