-- ==== Sys2Proof/Machine/State.lean ====
section
/-!
DEFINITION. The state of GOLCORE-1 (10_state R30), as plain data, the reasons a step can stop, and the state after reset
(R49).
-/

namespace Sys2Proof.Machine

/-- A row value (R17): `count` cells and their bits, `r[i] = bits.getLsbD i`. The padding of the last backing word is no
part of it (R46, R64). -/
structure Row where
  count : Nat
  bits : BitVec count
deriving DecidableEq, Repr

/-- The row storage (R60). An entry `none` of `n` or `t` is an invalid slot, `some r` a valid slot that holds `r` (R61). -/
structure Memory where
  /-- the committed generation `G[0..HEIGHT-1]` (R36) -/
  g : List Row
  /-- the next-generation buffer `N[0..HEIGHT-1]` (R37) -/
  n : List (Option Row)
  /-- the scratch slots `T[0..NT-1]` (R38) -/
  t : List (Option Row)
deriving DecidableEq, Repr

/-- A response (R90, R104): a completion status and a 64-bit value. -/
structure Response where
  ok : Bool
  value : Word
deriving DecidableEq, Repr

/-- What arrives at the block's inputs (R4, R340, R350). The events are the environment's moves: host words and reset come
from the host, row words from the sequencer (or from a harness standing for it, as in 95_test_vectors.md). -/
inductive PortEvent where
  /-- a command word on the host port -/
  | hostWord (w : Word)
  /-- a command word on the row port -/
  | rowWord (w : Word)
  /-- the reset input, between two commands (R340) -/
  | reset
  /-- the reset input asserted while the host command `w` is being executed (R340, I26) -/
  | resetDuring (w : Word)
deriving DecidableEq, Repr

/-- The state. From `created` to `fcmd` it is the tuple of R30; the other fields are the model's own (INVENTORY.md). -/
structure State where
  /-- the implementation parameters (R10 to R13, R15); no step changes them (log 1) -/
  params : Params
  /-- CREATED (R31) -/
  created : Bool
  /-- WIDTH (R32) -/
  width : BitVec 20
  /-- HEIGHT (R33) -/
  height : BitVec 20
  /-- NBH (R34) -/
  nbh : Neighborhood
  /-- TIME, `TW` bits wide: below `2 ^ TW` in every reachable state (R35, log 12) -/
  time : BitVec 64
  /-- the row slots G, N and T (R36 to R38) -/
  mem : Memory
  /-- BREG (R39) -/
  breg : Bool
  /-- FAULTED (R40) -/
  faulted : Bool
  /-- FCODE (R40) -/
  fcode : BitVec 8
  /-- FCMD (R40) -/
  fcmd : Word
  /-- the word of the host command being executed, which fault entry saves (R304, log 4) -/
  hostWord : Word
  /-- the port events still to come (log 2) -/
  inbox : List PortEvent
  /-- the response to the last command, if there was one since reset (R104, log 3) -/
  response : Option Response
  /-- the number of free values taken so far (R44, R47, log 5) -/
  draws : Nat
deriving DecidableEq, Repr

/-- The reasons the machine stops. There is none: every violated precondition enters the fault state, which is a next
state (R300, R304), and every command terminates with a response (R104, R361). Safe: no run of the model ends in a
fault (log 8). -/
inductive Fault where
deriving DecidableEq, Repr

/-- The reasons the model refuses an instruction. -/
inductive Refusal where
  /-- raised by an arm of `exec` for an instruction that has no meaning yet, with its mnemonic; no arm raises it. Safe:
  the model stops where the block goes on. -/
  | notModelled (mnemonic : String)
deriving DecidableEq, Repr

/-- The state after reset (R49, R340, R341): no grid, every scratch slot invalid, every register 0. The parameters are
`Params.standard` (log 1), no event is pending, no response has been given (logs 2 to 5). -/
def State.reset : State where
  params := Params.standard
  created := false
  width := 0
  height := 0
  nbh := .vonNeumann
  time := 0
  mem := { g := [], n := [], t := List.replicate Params.standard.numScratch none }
  breg := false
  faulted := false
  fcode := 0
  fcmd := 0
  hostWord := 0
  inbox := []
  response := none
  draws := 0

end Sys2Proof.Machine
end

