-- ==== Sys2Proof/Machine/RowValue.lean ====
section
/-!
DEFINITION. Row values (00_scope R17, R18) and their operations: bit access, AND, OR, XOR, NOT, the masking shifts and the
rotations, the word view of 20_memory R63 and the word-level shifts of 40_row_storage R156.
-/

namespace Sys2Proof.Machine

/-- `r[i]` (R17); false outside `[0, count)`, where no command reads (R62). -/
def Row.bit (r : Row) (i : Nat) : Bool := r.bits.getLsbD i

/-- `val(r)`, the row read as an integer (R17). -/
def Row.val (r : Row) : Nat := r.bits.toNat

/-- `zeros(n)` (R17). -/
def Row.zeros (n : Nat) : Row := ⟨n, 0⟩

/-- The `n` bits `f 0 .. f (n-1)`, index 0 least significant. -/
def tabulateBits : (n : Nat) → (Nat → Bool) → BitVec n
  | 0, _ => 0#0
  | n + 1, f => BitVec.cons (f n) (tabulateBits n f)

/-- The row of count `n` with bit `i` equal to `f i`. -/
def Row.tabulate (n : Nat) (f : Nat → Bool) : Row := ⟨n, tabulateBits n f⟩

/-- `a & b` for rows of equal count (R18). -/
def Row.and (a b : Row) : Row := ⟨a.count, a.bits &&& b.bits.setWidth a.count⟩

/-- `a | b` for rows of equal count (R18). -/
def Row.or (a b : Row) : Row := ⟨a.count, a.bits ||| b.bits.setWidth a.count⟩

/-- `a ^ b` for rows of equal count (R18). -/
def Row.xor (a b : Row) : Row := ⟨a.count, a.bits ^^^ b.bits.setWidth a.count⟩

/-- `~a` over the `count` bits alone (R18, R148). -/
def Row.not (a : Row) : Row := ⟨a.count, ~~~a.bits⟩

/-- `a << k`, the masking shift toward higher indices (R18, R153). -/
def Row.shl (a : Row) (k : Nat) : Row := ⟨a.count, a.bits <<< k⟩

/-- `a >> k`, the masking shift toward lower indices (R18, R154). -/
def Row.shr (a : Row) (k : Nat) : Row := ⟨a.count, a.bits >>> k⟩

/-- The row with bit `i` replaced by `v` (R141). -/
def Row.setBit (r : Row) (i : Nat) (v : Bool) : Row :=
  Row.tabulate r.count fun j => if j = i then v else r.bit j

/-- `a mod n` for `n ≥ 1`, also for a negative `a` (R16). -/
def wrap (a : Int) (n : Nat) : Nat := (a % (n : Int)).toNat

/-- `rotl(a, k)[i] = a[(i - k) mod n]` (R18). -/
def Row.rotl (a : Row) (k : Nat) : Row :=
  Row.tabulate a.count fun i => a.bit (wrap ((i : Int) - (k : Int)) a.count)

/-- `rotr(a, k)[i] = a[(i + k) mod n]` (R18). -/
def Row.rotr (a : Row) (k : Nat) : Row :=
  Row.tabulate a.count fun i => a.bit (wrap ((i : Int) + (k : Int)) a.count)

/-- The bits `f 0 .. f (k-1)` written at positions `base .. base + k - 1` of a row: the patch by which a caller restores
what a masking shift discarded (R155). -/
def Row.patch (r : Row) (base k : Nat) (f : Nat → Bool) : Row :=
  Row.tabulate r.count fun j => if base ≤ j ∧ j < base + k then f (j - base) else r.bit j

/-! ### The word view (R63, R156) -/

/-- `ceil(n / W)`, the number of backing words of a row of count `n` (R63). -/
def wordCount (w n : Nat) : Nat := (n + w - 1) / w

/-- `word(r, j)`: bits `j*W .. j*W + W - 1` of the row, padding read as 0 (R63). -/
def Row.word (w : Nat) (r : Row) (j : Nat) : BitVec w := r.bits.extractLsb' (j * w) w

/-- The backing words of a row, word 0 first (R63). -/
def Row.words (w : Nat) (r : Row) : List (BitVec w) := (List.range (wordCount w r.count)).map (r.word w)

/-- Word `j` of a left shift from its two source words, before the padding is cleared (R156): `w_{-1} = 0`. -/
def shlWord (w : Nat) (ws : Nat → BitVec w) (k j : Nat) : BitVec w :=
  (ws j <<< k) ||| (if j = 0 then 0 else ws (j - 1) >>> (w - k))

/-- Word `j` of a right shift from its two source words (R156). -/
def shrWord (w : Nat) (ws : Nat → BitVec w) (k j : Nat) : BitVec w :=
  (ws j >>> k) ||| (ws (j + 1) <<< (w - k))

/-- The padding of word `j` of a row of count `n` cleared (R156). -/
def clearPadding (w n j : Nat) (v : BitVec w) : BitVec w :=
  BitVec.setWidth w (BitVec.setWidth (n - j * w) v)

end Sys2Proof.Machine
end

