-- ==== Sys2Proof/Machine/Flags.lean ====
section
/-!
DEFINITION. The status the block shows: the fault codes' numbers (60_exceptions R301) and the STATUS word (10_state R41).
The block has no condition flags (R45).
-/

namespace Sys2Proof.Machine

/-- The FCODE number of a fault (R301). -/
def faultNumber : FaultCode → BitVec 8
  | .illegalCommand => 0x01#8
  | .notCreated => 0x02#8
  | .alreadyCreated => 0x03#8
  | .badDimension => 0x04#8
  | .indexRange => 0x05#8
  | .countMismatch => 0x06#8
  | .shiftRange => 0x07#8
  | .unallocatedRow => 0x08#8
  | .rowPortPrivilege => 0x09#8
  | .timeOverflow => 0x0A#8

/-- NBH as STATUS shows it: it reads 0 while CREATED = 0 (R41). -/
def statusNbh (s : State) : Bool := s.created && s.nbh == .moore

/-- The STATUS word (R41): CREATED in bit 0, NBH in bit 1, FAULTED in bit 2, FCODE in bits 15:8, every other bit 0. -/
def statusWord (s : State) : Word :=
  (0#48 ++ s.fcode ++ 0#5 ++ BitVec.ofBool s.faulted ++ BitVec.ofBool (statusNbh s) ++ BitVec.ofBool s.created :
    BitVec (48 + 8 + 5 + 1 + 1 + 1))

/-- A bit zero-extended to a response value (R104). -/
def valueOfBit (b : Bool) : Word := (BitVec.ofBool b).setWidth 64

end Sys2Proof.Machine
end

