-- ==== Sys2Proof/Machine/Ops.lean ====
section
/-!
DEFINITION. The shared operations of every command: reading and writing row slots (00_scope R19), drawing random rows (R44),
responding (30_encoding R104), entering the fault state (60_exceptions R304), refusing in it (R305), leaving it by reset
(R340), and the checks in the order of R310.
-/

namespace Sys2Proof.Machine

/-- The outcome of a command. -/
abbrev Result := Host.Outcome State Fault Refusal

/-! ### Row slots -/

/-- `MemRead(sp, i)` (R19, R61): the row a slot holds, `none` for an invalid slot and for one that does not exist. -/
def Memory.read (m : Memory) (d : Slot) : Option Row :=
  match d.space with
  | .g => m.g[d.index]?
  | .n => m.n[d.index]?.join
  | .t => m.t[d.index]?.join

/-- `MemWrite(sp, i, v)` (R19, R131): the slot's value becomes `v`, count included, and the slot becomes valid. -/
def Memory.write (m : Memory) (d : Slot) (v : Row) : Memory :=
  match d.space with
  | .g => { m with g := m.g.set d.index v }
  | .n => { m with n := m.n.set d.index (some v) }
  | .t => { m with t := m.t.set d.index (some v) }

/-- Every slot of a list made invalid (R37, R38). -/
def invalidated (l : List (Option Row)) : List (Option Row) := l.map fun _ => none

/-- Every `N` and every `T` slot made invalid (R37, R38, R355): no scratch row survives a host command that uses the row
port. -/
def Memory.dropScratch (m : Memory) : Memory := { m with n := invalidated m.n, t := invalidated m.t }

/-- Row `y` of a grid of width `w`. The all-zero row stands for an entry the list lacks, which no reachable state does
(R36, log 9). -/
def gridRow (g : List Row) (w y : Nat) : Row := (g[y]?).getD (Row.zeros w)

/-- The canonical form of the row storage for a grid of `w` by `h` cells, `nt` scratch slots and rows of at most `maxW`
cells (R36, R37, R38, R60): `h` rows of count `w` in G, `h` slots in N whose valid rows have count `w`, `nt` slots in T
whose valid rows have a count in `[1, maxW]`. -/
def Memory.wf (m : Memory) (w h nt maxW : Nat) : Bool :=
  decide (m.g.length = h) && m.g.all (fun r => r.count == w) &&
  decide (m.n.length = h) && m.n.all (fun o => o.all fun r => r.count == w) &&
  decide (m.t.length = nt) && m.t.all (fun o => o.all fun r => decide (1 ≤ r.count) && decide (r.count ≤ maxW))

/-! ### Registers -/

/-- WIDTH as an integer (R32). -/
def State.w (s : State) : Nat := s.width.toNat

/-- HEIGHT as an integer (R33). -/
def State.h (s : State) : Nat := s.height.toNat

/-- The row storage replaced. -/
def State.setMem (s : State) (m : Memory) : State := { s with mem := m }

/-- BREG replaced (R39). -/
def State.setBreg (s : State) (b : Bool) : State := { s with breg := b }

/-- TIME replaced (R35). -/
def State.setTime (s : State) (t : BitVec 64) : State := { s with time := t }

/-- The response replaced (R104). -/
def State.setResponse (s : State) (r : Response) : State := { s with response := some r }

/-- `k` free values taken (R44). -/
def State.takeDraws (s : State) (k : Nat) : State := { s with draws := s.draws + k }

/-- The fault record written (R40, R304). -/
def State.setFault (s : State) (code : BitVec 8) (cmd : Word) : State :=
  { s with faulted := true, fcode := code, fcmd := cmd }

/-- `MemWrite(d, v)` on the state (R19). -/
def State.writeSlot (s : State) (d : Slot) (v : Row) : State := s.setMem (s.mem.write d v)

/-- `Draw(n)`: the `k`-th free row of count `n` from now (R19, R44). -/
def State.draw (s : State) (k n : Nat) : Row := ⟨n, Config.drawBits (s.draws + k) n⟩

/-! ### Completion, faults and refusals -/

/-- `respond(v)`: the command completes with `OK = 1, VALUE = v` (R19, R104). -/
def respond (v : Word) (s : State) : Result := .next (s.setResponse ⟨true, v⟩)

/-- The state after fault entry (R304): FAULTED, FCODE and FCMD are written, the response is `(0, FCODE)`, and nothing else
changes. FCMD is the word of the host command being executed. -/
def State.enterFault (s : State) (f : FaultCode) : State :=
  (s.setFault (faultNumber f) s.hostWord).setResponse ⟨false, (faultNumber f).setWidth 64⟩

/-- Taking a fault, `raise Fault(f)` (R304): the block's one exception. -/
def raiseFault (f : FaultCode) (s : State) : Result := .next (s.enterFault f)

/-- The state after a refusal in the fault state (R305): the response `(0, FCODE)` and no other change. -/
def State.turnedAway (s : State) : State := s.setResponse ⟨false, s.fcode.setWidth 64⟩

/-- The refusal of a command in the fault state (R305). It is no refusal of the model: the block goes on. -/
def refuse (s : State) : Result := .next s.turnedAway

/-- `require c else Fault(f)` (R20). -/
def require (c : Prop) [Decidable c] (f : FaultCode) (s : State) (k : Result) : Result :=
  if c then k else raiseFault f s

/-- Step 3 of R310: in the fault state the command is refused (R305). -/
def whenRunning (s : State) (k : Result) : Result := if s.faulted then refuse s else k

/-- Steps 3 and 4 of R310 for every command but CREATE, READ_STATUS and READ_FCMD (R130, R181, R182). -/
def whenCreated (s : State) (k : Result) : Result :=
  whenRunning s (require (s.created = true) .notCreated s k)

/-- A word the decoder faults with `f` (R103): the fault is entered, or in the fault state the word is refused (R305). -/
def decodeFault (f : FaultCode) (s : State) : Result := whenRunning s (raiseFault f s)

/-- The end of a host command that uses the row port (R181, R272, R355): every `N` and every `T` slot is invalid, and BREG
holds an unspecified value, a free value of the model (R47, log 6). The dash of R48's table for `N` is read so (log 15). -/
def State.endRowUse (s : State) : State :=
  ((s.setMem s.mem.dropScratch).setBreg (Config.unspecifiedBreg s.draws)).takeDraws 1

/-! ### Reset -/

/-- The reset input (R340): every piece of state has the value of R49. The parameters are the machine's (log 1), the
events after the reset are still to come, and the free values go on where they were, so that no draw repeats (log 5). -/
def State.applyReset (s : State) : State :=
  { State.reset with
    params := s.params
    mem := { g := [], n := [], t := List.replicate s.params.numScratch none }
    inbox := s.inbox
    draws := s.draws }

end Sys2Proof.Machine
end

