-- ==== Sys2Proof/Machine/Operands.lean ====
section
/-!
DEFINITION. The operand forms and their range checks: slot operands (40_row_storage R130 to R132), counts (R133), bit indices
(R138), shift amounts (R152), the value operand of ROW_SET (30_encoding R97), and cell coordinates (41_grid_commands R190).
-/

namespace Sys2Proof.Machine

/-- The slot exists: `i < HEIGHT` for G and N, `i < NT` for T (R130). -/
def slotExists (s : State) (d : Slot) : Bool :=
  match d.space with
  | .g => decide (d.index < s.h)
  | .n => decide (d.index < s.h)
  | .t => decide (d.index < s.params.numScratch)

/-- A count operand lies in `[1, MAX_WIDTH]` (R133). -/
def legalCount (s : State) (count : Nat) : Bool := decide (1 ≤ count) && decide (count ≤ s.params.maxWidth)

/-- A row of this count may be written to the slot: any to T, only WIDTH to G and N (R131). -/
def countFits (s : State) (d : Slot) (count : Nat) : Bool :=
  match d.space with
  | .g => decide (count = s.w)
  | .n => decide (count = s.w)
  | .t => true

/-- A shift amount satisfies `0 < k ≤ W` (R152). -/
def legalShift (s : State) (k : Nat) : Bool := decide (0 < k) && decide (k ≤ s.params.wordWidth)

/-- A cell lies in the grid: `x < WIDTH` and `y < HEIGHT` (R190, R192). -/
def cellExists (s : State) (x y : Nat) : Bool := decide (x < s.w) && decide (y < s.h)

/-- The value operand of ROW_SET: the V field or BREG (R97, R141). -/
def bitValue (s : State) : BitSource → Bool
  | .imm v => v
  | .breg => s.breg

/-- The check that a slot operand exists (R130). -/
def withSlot (s : State) (d : Slot) (k : Result) : Result :=
  require (slotExists s d = true) .indexRange s k

/-- The read of a slot operand, which must be valid (R132). -/
def withRow (s : State) (d : Slot) (k : Row → Result) : Result :=
  match s.mem.read d with
  | some r => k r
  | none => raiseFault .unallocatedRow s

/-- The check that a cell lies in the grid, `x` before `y` (R190, R310 step 7). -/
def withCell (s : State) (x y : Nat) (k : Result) : Result :=
  require (cellExists s x y = true) .indexRange s k

end Sys2Proof.Machine
end

