-- ==== Sys2Proof/Machine/RowStorage.lean ====
section
/-!
DEFINITION. The row-port commands (40_row_storage R134 to R154). Each checks in the order of 60_exceptions R310: the fault
state, CREATED, the slots (destination before source), their validity, the immediate, the counts.
-/

namespace Sys2Proof.Machine

/-! ### Shared shapes -/

/-- A slot made a new row of `count` cells (the pseudocode of R134 and R136): the slot need not be valid before. -/
def createRow (d : Slot) (count : Nat) (v : Row) (s s' : State) : Result :=
  whenCreated s <|
  withSlot s d <|
  require (legalCount s count = true) .badDimension s <|
  require (countFits s d count = true) .countMismatch s <|
  respond 0 (s'.writeSlot d v)

/-- `d <- op d src` for two rows of the same count (R144 and the pseudocode of R145). Both are read before the write (R19,
R151). -/
def combineRows (op : Row → Row → Row) (d src : Slot) (s : State) : Result :=
  whenCreated s <|
  withSlot s d <|
  withSlot s src <|
  withRow s d fun a =>
  withRow s src fun b =>
  require (a.count = b.count) .countMismatch s <|
  respond 0 (s.writeSlot d (op a b))

/-- `d <- op src` (R149 and the pseudocode of R148): the destination need not be valid before. -/
def replaceRow (op : Row → Row) (d src : Slot) (s : State) : Result :=
  whenCreated s <|
  withSlot s d <|
  withSlot s src <|
  withRow s src fun b =>
  require (countFits s d b.count = true) .countMismatch s <|
  respond 0 (s.writeSlot d (op b))

/-- A masking shift of a slot by `k` (R152 and the pseudocode of R153 and R154). -/
def shiftRow (op : Row → Nat → Row) (d : Slot) (k : Nat) (s : State) : Result :=
  whenCreated s <|
  withSlot s d <|
  withRow s d fun r =>
  require (legalShift s k = true) .shiftRange s <|
  respond 0 (s.writeSlot d (op r k))

/-! ### The commands -/

/-- ROW_CREATE (R134): the slot becomes an all-zero row of the given count. -/
def execRowCreate (d : Slot) (count : Nat) (s : State) : Result :=
  createRow d count (Row.zeros count) s s

/-- ROW_RANDOM (R136): the slot becomes `Draw(count)`. -/
def execRowRandom (d : Slot) (count : Nat) (s : State) : Result :=
  createRow d count (s.draw 0 count) s (s.takeDraws 1)

/-- ROW_GET (R140): one bit is read into BREG and the response. -/
def execRowGet (d : Slot) (idx : Nat) (s : State) : Result :=
  whenCreated s <|
  withSlot s d <|
  withRow s d fun r =>
  require (idx < r.count) .indexRange s <|
  respond (valueOfBit (r.bit idx)) (s.setBreg (r.bit idx))

/-- ROW_SET (R141): one bit is written, from the V field or from BREG. -/
def execRowSet (d : Slot) (idx : Nat) (v : BitSource) (s : State) : Result :=
  whenCreated s <|
  withSlot s d <|
  withRow s d fun r =>
  require (idx < r.count) .indexRange s <|
  respond 0 (s.writeSlot d (r.setBit idx (bitValue s v)))

/-- ROW_CLEAR (R143): every bit becomes 0, the count stays. -/
def execRowClear (d : Slot) (s : State) : Result :=
  whenCreated s <|
  withSlot s d <|
  withRow s d fun r =>
  respond 0 (s.writeSlot d (Row.zeros r.count))

/-- ROW_AND (R145). -/
def execRowAnd (d src : Slot) (s : State) : Result := combineRows Row.and d src s

/-- ROW_OR (R146). -/
def execRowOr (d src : Slot) (s : State) : Result := combineRows Row.or d src s

/-- ROW_XOR (R147). -/
def execRowXor (d src : Slot) (s : State) : Result := combineRows Row.xor d src s

/-- ROW_NOT (R148). -/
def execRowNot (d src : Slot) (s : State) : Result := replaceRow Row.not d src s

/-- ROW_COPY (R150). -/
def execRowCopy (d src : Slot) (s : State) : Result := replaceRow (fun r => r) d src s

/-- ROW_SHL (R153). -/
def execRowShl (d : Slot) (k : Nat) (s : State) : Result := shiftRow Row.shl d k s

/-- ROW_SHR (R154). -/
def execRowShr (d : Slot) (k : Nat) (s : State) : Result := shiftRow Row.shr d k s

end Sys2Proof.Machine
end

