-- ==== Sys2Proof/Machine/GridCommands.lean ====
section
/-!
DEFINITION. The host-port commands other than ADVANCE (41_grid_commands R180 to R198). Checks are made in the order of
60_exceptions R310.
-/

namespace Sys2Proof.Machine

/-! ### Construction -/

/-- The state after a successful CREATE (R50, R180): an all-dead grid at generation 0, every N and T slot invalid; BREG and
the fault record keep their values. -/
def State.construct (s : State) (width height : Nat) (nbh : Neighborhood) : State :=
  { s with
    created := true
    width := BitVec.ofNat 20 width
    height := BitVec.ofNat 20 height
    nbh := nbh
    time := 0
    mem := { g := List.replicate height (Row.zeros width)
             n := List.replicate height none
             t := List.replicate s.params.numScratch none } }

/-- CREATE (R180): once per reset; the width is checked before the height. -/
def execCreate (width height : Nat) (nbh : Neighborhood) (s : State) : Result :=
  whenRunning s <|
  require (s.created = false) .alreadyCreated s <|
  require (1 ≤ width ∧ width ≤ s.params.maxWidth) .badDimension s <|
  require (1 ≤ height ∧ height ≤ s.params.maxHeight) .badDimension s <|
  respond 0 (s.construct width height nbh)

/-! ### The grid rows as a whole and by the cell -/

/-- The committed generation replaced. -/
def Memory.setGrid (m : Memory) (g : List Row) : Memory := { m with g := g }

/-- Cell `(x, y)` of a grid of width `w`: bit `x` of row `y` (R21). -/
def gridCell (g : List Row) (w x y : Nat) : Bool := (gridRow g w y).bit x

/-- The grid with cell `(x, y)` replaced (R21, R192). -/
def setGridCell (g : List Row) (w x y : Nat) (v : Bool) : List Row := g.set y ((gridRow g w y).setBit x v)

/-- The cells of the fixed seed, `(x, y)` (R188): the R-pentomino. -/
def seedCells : List (Nat × Nat) := [(1, 0), (2, 0), (0, 1), (1, 1), (1, 2)]

/-- The grid with the five seed cells set and every other cell as before (R188). -/
def seedGrid (g : List Row) (w : Nat) : List Row :=
  seedCells.foldl (fun acc c => setGridCell acc w c.1 c.2 true) g

/-- CLEAR (R184): every cell dies and TIME becomes 0. -/
def execClear (s : State) : Result :=
  whenCreated s <|
  respond 0 (((s.setTime 0).setMem (s.mem.setGrid (List.replicate s.h (Row.zeros s.w)))).endRowUse)

/-- The drawn grid of PUT_RANDOM (R186): every row is a draw of its own (R187). -/
def State.drawGrid (s : State) : List Row := (List.range s.h).map fun y => s.draw y s.w

/-- PUT_RANDOM (R186): every row is replaced by a draw; TIME stays. -/
def execPutRandom (s : State) : Result :=
  whenCreated s <|
  respond 0 (((s.setMem (s.mem.setGrid s.drawGrid)).takeDraws s.h).endRowUse)

/-- PUT_FIXED_SEED (R188): the five cells are set; a grid narrower or lower than 3 faults (R358). -/
def execPutFixedSeed (s : State) : Result :=
  whenCreated s <|
  require (3 ≤ s.w ∧ 3 ≤ s.h) .indexRange s <|
  respond 0 ((s.setMem (s.mem.setGrid (seedGrid s.mem.g s.w))).endRowUse)

/-- GET_CELL (R190): one cell is read. -/
def execGetCell (x y : Nat) (s : State) : Result :=
  whenCreated s <|
  withCell s x y <|
  respond (valueOfBit (gridCell s.mem.g s.w x y)) s.endRowUse

/-- SET_CELL (R192): one cell is written; TIME stays. -/
def execSetCell (x y : Nat) (v : Bool) (s : State) : Result :=
  whenCreated s <|
  withCell s x y <|
  respond 0 ((s.setMem (s.mem.setGrid (setGridCell s.mem.g s.w x y v))).endRowUse)

/-! ### Register reads -/

/-- READ_GEN (R194): TIME, zero-extended. -/
def execReadGen (s : State) : Result := whenCreated s (respond s.time s)

/-- READ_WIDTH (R195). -/
def execReadWidth (s : State) : Result := whenCreated s (respond (s.width.setWidth 64) s)

/-- READ_HEIGHT (R196). -/
def execReadHeight (s : State) : Result := whenCreated s (respond (s.height.setWidth 64) s)

/-- READ_STATUS (R197): executes with CREATED = 0 and in the fault state. -/
def execReadStatus (s : State) : Result := respond (statusWord s) s

/-- READ_FCMD (R198): executes with CREATED = 0 and in the fault state. -/
def execReadFcmd (s : State) : Result := respond s.fcmd s

end Sys2Proof.Machine
end

