-- ==== Sys2Proof/Machine/NeighborCounter.lean ====
section
/-!
DEFINITION. The neighbor planes and the carry-save-adder neighbor counter (42_neighbor_counter R220 to R232): the
neighborhoods and the count of a cell, the planes of a row, the counter's contract, and the reference networks.
-/

namespace Sys2Proof.Machine

/-! ### Neighborhoods and counts (R220, R224) -/

/-- The neighbor offsets `(dx, dy)` (R220), in the plane order of R222 and R223. -/
def offsets : Neighborhood → List (Int × Int)
  | .moore => [(-1, -1), (0, -1), (1, -1), (-1, 0), (1, 0), (-1, 1), (0, 1), (1, 1)]
  | .vonNeumann => [(0, -1), (-1, 0), (1, 0), (0, 1)]

/-- The neighbor of cell `(x, y)` at an offset, on the torus of `w` by `h` cells (R220). -/
def neighborCell (g : List Row) (w h x y : Nat) (o : Int × Int) : Bool :=
  gridCell g w (wrap ((x : Int) + o.1) w) (wrap ((y : Int) + o.2) h)

/-- `count_M(x, y)` or `count_V(x, y)`: each offset adds its cell's state once, even where two offsets name one cell or
the cell itself (R224, R225). -/
def neighborCount (nbh : Neighborhood) (g : List Row) (w h x y : Nat) : Nat :=
  ((offsets nbh).map fun o => (neighborCell g w h x y o).toNat).sum

/-! ### Planes (R221 to R223) -/

/-- `west(r)[x] = r[(x - 1) mod w]` (R221). -/
def Row.west (r : Row) : Row := r.rotl 1

/-- `east(r)[x] = r[(x + 1) mod w]` (R221). -/
def Row.east (r : Row) : Row := r.rotr 1

/-- The west plane as it is built from a masking shift and a patch of the lost bit (R221). -/
def Row.westByPatch (r : Row) : Row := (r.shl 1).setBit 0 (r.bit (r.count - 1))

/-- The east plane as it is built from a masking shift and a patch of the lost bit (R221). -/
def Row.eastByPatch (r : Row) : Row := (r.shr 1).setBit (r.count - 1) (r.bit 0)

/-- The planes of a row from the rows north of, at and south of it: `a0 .. a7` (R222) or `b0 .. b3` (R223). -/
def planesOf (nbh : Neighborhood) (p c s : Row) : List Row :=
  match nbh with
  | .moore => [p.west, p, p.east, c.west, c.east, s.west, s, s.east]
  | .vonNeumann => [p, c.west, c.east, s]

/-- The row north of row `y`, on the torus (section 1 of 42_neighbor_counter; R270). -/
def northRow (g : List Row) (w h y : Nat) : Row := gridRow g w (wrap ((y : Int) - 1) h)

/-- The row south of row `y`, on the torus. -/
def southRow (g : List Row) (w h y : Nat) : Row := gridRow g w (wrap ((y : Int) + 1) h)

/-- The planes of grid row `y`. -/
def planes (nbh : Neighborhood) (g : List Row) (w h y : Nat) : List Row :=
  planesOf nbh (northRow g w h y) (gridRow g w y) (southRow g w h y)

/-! ### The counter's contract (R227) -/

/-- The masks `eq2` and `eq3` of a row. -/
structure Masks where
  eq2 : Row
  eq3 : Row
deriving DecidableEq, Repr

/-- The count at one position: the number of planes whose bit is 1 there (R224). -/
def planeCount (ps : List Row) (x : Nat) : Nat := (ps.map fun r => (r.bit x).toNat).sum

/-- The neighbor counter (R227), the normative contract: `eq2[x]` is "the count is 2", `eq3[x]` "the count is 3". The
networks below realise it (R228; log 10). -/
def counter (w : Nat) (ps : List Row) : Masks where
  eq2 := Row.tabulate w fun x => planeCount ps x == 2
  eq3 := Row.tabulate w fun x => planeCount ps x == 3

/-! ### Adders and the reference networks (R226, R229, R231) -/

/-- A full or half adder's result: the sum plane (weight 1) and the carry plane (weight 2). -/
structure SumCarry where
  sum : Row
  carry : Row
deriving DecidableEq, Repr

/-- `FA(x, y, z) = (x ^ y ^ z, (x & y) | (z & (x ^ y)))` (R226). -/
def fullAdder (x y z : Row) : SumCarry where
  sum := (x.xor y).xor z
  carry := (x.and y).or (z.and (x.xor y))

/-- `HA(x, y) = (x ^ y, x & y)` (R226). -/
def halfAdder (x y : Row) : SumCarry where
  sum := x.xor y
  carry := x.and y

/-- The 8-neighbor reference network (R229). -/
def mooreNetwork (a0 a1 a2 a3 a4 a5 a6 a7 : Row) : Masks :=
  let l0 := fullAdder a0 a1 a2
  let l1 := fullAdder a3 a4 a5
  let l2 := halfAdder a6 a7
  let ones := fullAdder l0.sum l1.sum l2.sum
  let tu := fullAdder l0.carry l1.carry l2.carry
  let k1 := tu.carry.not.and (tu.sum.xor ones.carry)
  { eq2 := k1.and ones.sum.not, eq3 := k1.and ones.sum }

/-- The 4-neighbor reference network (R231). -/
def vonNeumannNetwork (b0 b1 b2 b3 : Row) : Masks :=
  let l0 := fullAdder b0 b1 b2
  let ones := halfAdder l0.sum b3
  let k1 := l0.carry.xor ones.carry
  { eq2 := k1.and ones.sum.not, eq3 := k1.and ones.sum }

/-- The reference network over the planes of a row (R228, R229, R231). -/
def networkOf (nbh : Neighborhood) (p c s : Row) : Masks :=
  match nbh with
  | .moore => mooreNetwork p.west p p.east c.west c.east s.west s s.east
  | .vonNeumann => vonNeumannNetwork p c.west c.east s

end Sys2Proof.Machine
end

