-- ==== Sys2Proof/Machine/Transition.lean ====
section
/-!
DEFINITION. The birth/survival rule, the threshold detector and ADVANCE (43_transition R260 to R273).
-/

namespace Sys2Proof.Machine

/-! ### The rule and the detector -/

/-- `Rule(c, n) = (n = 3) or (c = 1 and n = 2)` (R260), the same for both neighborhoods (R262). -/
def lifeRule (c : Bool) (n : Nat) : Bool := n == 3 || (c && n == 2)

/-- The threshold detector, `(~C & eq3) | (C & (eq2 | eq3))` (R263). -/
def detector (c : Row) (m : Masks) : Row := (c.not.and m.eq3).or (c.and (m.eq2.or m.eq3))

/-! ### The next generation -/

/-- `nextRow(y)`: the detector on the counter's masks for the planes of row `y` (R263, R266). It reads the committed rows
only (R267). -/
def nextRow (nbh : Neighborhood) (g : List Row) (w h y : Nat) : Row :=
  detector (gridRow g w y) (counter w (planes nbh g w h y))

/-- The rows ADVANCE computes into N and commits, `y = 0 .. h-1` (R266, R269). -/
def nextRows (nbh : Neighborhood) (g : List Row) (w h : Nat) : List Row :=
  (List.range h).map fun y => nextRow nbh g w h y

/-- `next(G)`, cell by cell: `next(G)[y][x] = Rule(G[y][x], count(x, y))` (R265). -/
def nextGrid (nbh : Neighborhood) (g : List Row) (w h : Nat) : List Row :=
  (List.range h).map fun y =>
    Row.tabulate w fun x => lifeRule (gridCell g w x y) (neighborCount nbh g w h x y)

/-- The largest value of TIME, `2^TW - 1` (R13, R35). -/
def State.timeLimit (s : State) : Nat := 2 ^ s.params.timeWidth - 1

/-- The commit (R268): all grid rows are replaced and TIME is incremented in one atomic change, then every N and T slot is
invalid and BREG unspecified (R272). -/
def State.commit (s : State) (g : List Row) : State :=
  ((s.setTime (s.time + 1)).setMem (s.mem.setGrid g)).endRowUse

/-- ADVANCE (R266): the next generation is computed from the committed one and committed. -/
def execAdvance (s : State) : Result :=
  whenCreated s <|
  require (s.time.toNat < s.timeLimit) .timeOverflow s <|
  respond 0 (s.commit (nextRows s.nbh s.mem.g s.w s.h))

end Sys2Proof.Machine
end

