-- ==== Sys2Proof/Machine/Dispatch.lean ====
section
/-!
DEFINITION. The dispatch of a command to its meaning, one arm per row of spec/opcode_table.json (30_encoding R98).
-/

namespace Sys2Proof.Machine

/-- The effect of one command on the state. -/
def exec (i : Instr) (s : State) : Host.Outcome State Fault Refusal :=
  match i with
  | .create w h nbh => Sys2Proof.Machine.execCreate w h nbh s
  | .clear => Sys2Proof.Machine.execClear s
  | .putRandom => Sys2Proof.Machine.execPutRandom s
  | .putFixedSeed => Sys2Proof.Machine.execPutFixedSeed s
  | .advance => Sys2Proof.Machine.execAdvance s
  | .getCell x y => Sys2Proof.Machine.execGetCell x y s
  | .setCell x y v => Sys2Proof.Machine.execSetCell x y v s
  | .readGen => Sys2Proof.Machine.execReadGen s
  | .readWidth => Sys2Proof.Machine.execReadWidth s
  | .readHeight => Sys2Proof.Machine.execReadHeight s
  | .readStatus => Sys2Proof.Machine.execReadStatus s
  | .readFcmd => Sys2Proof.Machine.execReadFcmd s
  | .rowCreate d n => Sys2Proof.Machine.execRowCreate d n s
  | .rowRandom d n => Sys2Proof.Machine.execRowRandom d n s
  | .rowGet d idx => Sys2Proof.Machine.execRowGet d idx s
  | .rowSet d idx v => Sys2Proof.Machine.execRowSet d idx v s
  | .rowClear d => Sys2Proof.Machine.execRowClear d s
  | .rowAnd d src => Sys2Proof.Machine.execRowAnd d src s
  | .rowOr d src => Sys2Proof.Machine.execRowOr d src s
  | .rowXor d src => Sys2Proof.Machine.execRowXor d src s
  | .rowNot d src => Sys2Proof.Machine.execRowNot d src s
  | .rowCopy d src => Sys2Proof.Machine.execRowCopy d src s
  | .rowShl d k => Sys2Proof.Machine.execRowShl d k s
  | .rowShr d k => Sys2Proof.Machine.execRowShr d k s

end Sys2Proof.Machine
end

