-- ==== Sys2Proof/Machine/Ports.lean ====
section
/-!
DEFINITION. The ports: how an event at the inputs becomes the command to run (30_encoding R103, 00_scope R4, 20_memory R72, R75, 70_reset R340,
R342), and the host's way to send a word or its bytes.
-/

namespace Sys2Proof.Machine

/-- A word accepted at a port, with the state that has accepted it. -/
structure Accepted where
  port : Port
  word : Word
  state : State
deriving DecidableEq, Repr

/-- What one step has to do. -/
inductive Work where
  /-- no event has arrived: the block waits and keeps its state (R326, R342) -/
  | idle
  /-- a reset has been taken, with the state after it (R340) -/
  | reset (s : State)
  /-- a command word has been accepted -/
  | command (a : Accepted)
deriving DecidableEq, Repr

/-- The next event taken from the inputs. The port is serial: one word is accepted at a time (R75). The word of a host
command is latched for fault entry (R304); a row word runs under the host command in progress (log 4). A reset during a
host command drops it with no effect and no response (R340, I26). -/
def State.accept (s : State) : Work :=
  match s.inbox with
  | [] => .idle
  | .hostWord w :: rest => .command ⟨.host, w, { s with inbox := rest, hostWord := w }⟩
  | .rowWord w :: rest => .command ⟨.row, w, { s with inbox := rest }⟩
  | .reset :: rest => .reset { s with inbox := rest }.applyReset
  | .resetDuring _ :: rest => .reset { s with inbox := rest }.applyReset

/-- A word accepted at a port: the decoder's command runs, or the decoder's fault is entered (R103, R304, R305). -/
def runAccepted (a : Accepted) : Result :=
  match decode a.port a.word with
  | .ok i => exec i a.state
  | .error f => decodeFault f a.state

/-- The event that presents a word at the port its opcode belongs to (R98; log 14). -/
def eventForWord (w : Word) : PortEvent :=
  match portOfWord w with
  | .host => .hostWord w
  | .row => .rowWord w

/-- The state with an event presented before every pending one. -/
def State.present (s : State) (e : PortEvent) : State := { s with inbox := e :: s.inbox }

/-- The state with a table word presented before every pending event. -/
def State.presentTableWord (s : State) (nbits w : Nat) : State :=
  s.present (eventForWord (BitVec.ofNat 64 (w % 2 ^ nbits)))

/-- The host sends a word (R350): it arrives after every pending event. -/
def State.send (s : State) (w : Word) : State := { s with inbox := s.inbox ++ [.hostWord w] }

/-- The host sends a word as bytes in the platform's order (R15); bytes that are no 64-bit word send nothing (R90). -/
def State.sendBytes (s : State) (bytes : List Byte) : Option State :=
  (wordOfBytes s.params.hostByteOrder bytes).map s.send

/-- The bytes of the last response's VALUE in the platform's order (R15). -/
def State.responseBytes (s : State) : Option (Bool × List Byte) :=
  s.response.map fun r => (r.ok, bytesOfWord s.params.hostByteOrder r.value)

end Sys2Proof.Machine
end

