-- ==== Sys2Proof/Machine/Step.lean ====
section
/-!
DEFINITION. One step of the block: one event of its inputs, one atomic command (20_memory R72, 70_reset R360).
-/

namespace Sys2Proof.Machine

/-- One step: wait (R342), take a reset (R340), or run one command to completion (R75). -/
def step (s : State) : Host.Outcome State Fault Refusal :=
  match s.accept with
  | .idle => .next s
  | .reset s' => .next s'
  | .command a => runAccepted a

/-- `s` with a command word presented where `step` takes its next event: at the host port for a host opcode, at the row
port for a row opcode (log 14). -/
def State.withFetchWord (s : State) (nbits w : Nat) : State := s.presentTableWord nbits w

end Sys2Proof.Machine
end

