-- ==== Sys2Proof/Machine/Pseudo.lean ====
section
/-!
DEFINITION. The pseudo-commands (30_encoding R106), the Seeder (41_grid_commands R199) and the reference microprograms of one
grid row (43_transition R280, R281): lists of commands with no encoding of their own.
-/

namespace Sys2Proof.Machine

/-- The pseudo-commands of R106. ROW_ROTL1 and ROW_ROTR1 carry `n`, the count of their source, "known to the sequencer". -/
inductive Pseudo where
  | seedDead
  | seedRandom
  | seedFixed
  | rotl1 (d src : Slot) (n : Nat)
  | rotr1 (d src : Slot) (n : Nat)
  | ha (s c x y : Slot)
  | fa (s c x y z t : Slot)
deriving DecidableEq, Repr

/-- The commands a pseudo-command stands for (R106). -/
def Pseudo.expand : Pseudo → List Instr
  | .seedDead => [.clear]
  | .seedRandom => [.clear, .putRandom]
  | .seedFixed => [.clear, .putFixedSeed]
  | .rotl1 d src n => [.rowCopy d src, .rowShl d 1, .rowGet src (n - 1), .rowSet d 0 .breg]
  | .rotr1 d src n => [.rowCopy d src, .rowShr d 1, .rowGet src 0, .rowSet d (n - 1) .breg]
  | .ha s c x y => [.rowCopy s x, .rowXor s y, .rowCopy c x, .rowAnd c y]
  | .fa s c x y z t =>
    [.rowCopy s x, .rowXor s y, .rowCopy c x, .rowAnd c y, .rowCopy t s, .rowAnd t z, .rowOr c t, .rowXor s z]

/-- The condition under which an expansion has its effect (the last column of R106's table). -/
def Pseudo.admissible : Pseudo → Bool
  | .seedDead => true
  | .seedRandom => true
  | .seedFixed => true
  | .rotl1 d src _ => d != src
  | .rotr1 d src _ => d != src
  | .ha s c x y => decide [s, c, x, y].Nodup
  | .fa s c x y z t =>
    decide [s, c, t].Nodup && [s, c, t].all fun a => [x, y, z].all fun b => a != b

/-- The slot `G[i]`. -/
def slotG (i : Nat) : Slot := ⟨.g, i⟩

/-- The slot `N[i]`. -/
def slotN (i : Nat) : Slot := ⟨.n, i⟩

/-- The slot `T[i]`. -/
def slotT (i : Nat) : Slot := ⟨.t, i⟩

/-- The threshold detector on masks in `T[9]` (eq2) and `T[8]` (eq3), and the write of `N[y]`: steps 70 to 76 of R280, which
are steps 28 to 34 of R281. -/
def detectorProgram (y : Nat) : List Instr :=
  [.rowNot (slotT 0) (slotG y), .rowAnd (slotT 0) (slotT 8),
   .rowCopy (slotT 1) (slotT 9), .rowOr (slotT 1) (slotT 8), .rowAnd (slotT 1) (slotG y),
   .rowOr (slotT 0) (slotT 1), .rowCopy (slotN y) (slotT 0)]

/-- Steps 1 to 26 of R280: the planes `a0 .. a7` into `T[0] .. T[7]`, for rows of count `n`. -/
def moorePlanesProgram (ym y yp n : Nat) : List Instr :=
  (Pseudo.rotl1 (slotT 0) (slotG ym) n).expand ++
  [.rowCopy (slotT 1) (slotG ym)] ++
  (Pseudo.rotr1 (slotT 2) (slotG ym) n).expand ++
  (Pseudo.rotl1 (slotT 3) (slotG y) n).expand ++
  (Pseudo.rotr1 (slotT 4) (slotG y) n).expand ++
  (Pseudo.rotl1 (slotT 5) (slotG yp) n).expand ++
  [.rowCopy (slotT 6) (slotG yp)] ++
  (Pseudo.rotr1 (slotT 7) (slotG yp) n).expand

/-- Steps 27 to 69 of R280: the 8-neighbor network, from the planes in `T[0] .. T[7]` to eq3 in `T[8]` and eq2 in `T[9]`. -/
def mooreNetworkProgram : List Instr :=
  (Pseudo.fa (slotT 8) (slotT 9) (slotT 0) (slotT 1) (slotT 2) (slotT 10)).expand ++
  (Pseudo.fa (slotT 0) (slotT 1) (slotT 3) (slotT 4) (slotT 5) (slotT 10)).expand ++
  (Pseudo.ha (slotT 2) (slotT 3) (slotT 6) (slotT 7)).expand ++
  (Pseudo.fa (slotT 4) (slotT 5) (slotT 8) (slotT 0) (slotT 2) (slotT 10)).expand ++
  (Pseudo.fa (slotT 6) (slotT 7) (slotT 9) (slotT 1) (slotT 3) (slotT 10)).expand ++
  [.rowXor (slotT 6) (slotT 5), .rowNot (slotT 10) (slotT 7), .rowAnd (slotT 6) (slotT 10),
   .rowCopy (slotT 8) (slotT 6), .rowAnd (slotT 8) (slotT 4),
   .rowNot (slotT 9) (slotT 4), .rowAnd (slotT 9) (slotT 6)]

/-- The 76 row commands of the Moore row microprogram (R280) for row `y` of a grid of `w` by `h` cells. -/
def mooreRowProgram (w h y : Nat) : List Instr :=
  moorePlanesProgram (wrap ((y : Int) - 1) h) y (wrap ((y : Int) + 1) h) w ++
  mooreNetworkProgram ++ detectorProgram y

/-- Steps 1 to 10 of R281: the planes `b0 .. b3` into `T[0] .. T[3]`. -/
def vonNeumannPlanesProgram (ym y yp n : Nat) : List Instr :=
  [.rowCopy (slotT 0) (slotG ym)] ++
  (Pseudo.rotl1 (slotT 1) (slotG y) n).expand ++
  (Pseudo.rotr1 (slotT 2) (slotG y) n).expand ++
  [.rowCopy (slotT 3) (slotG yp)]

/-- Steps 11 to 27 of R281: the 4-neighbor network, from the planes in `T[0] .. T[3]` to eq3 in `T[8]` and eq2 in `T[9]`. -/
def vonNeumannNetworkProgram : List Instr :=
  (Pseudo.fa (slotT 4) (slotT 5) (slotT 0) (slotT 1) (slotT 2) (slotT 10)).expand ++
  (Pseudo.ha (slotT 6) (slotT 7) (slotT 4) (slotT 3)).expand ++
  [.rowXor (slotT 5) (slotT 7), .rowCopy (slotT 8) (slotT 5), .rowAnd (slotT 8) (slotT 6),
   .rowNot (slotT 9) (slotT 6), .rowAnd (slotT 9) (slotT 5)]

/-- The 34 row commands of the von Neumann row microprogram (R281). -/
def vonNeumannRowProgram (w h y : Nat) : List Instr :=
  vonNeumannPlanesProgram (wrap ((y : Int) - 1) h) y (wrap ((y : Int) + 1) h) w ++
  vonNeumannNetworkProgram ++ detectorProgram y

/-- The reference microprogram of row `y` for a neighborhood (R282). -/
def rowProgram (nbh : Neighborhood) (w h y : Nat) : List Instr :=
  match nbh with
  | .moore => mooreRowProgram w h y
  | .vonNeumann => vonNeumannRowProgram w h y

end Sys2Proof.Machine
end

