-- ==== Sys2Proof/Machine/Sequencer.lean ====
section
/-!
DEFINITION. The sequencer's reference realisation of the host commands by row-port commands (41_grid_commands R181, R184 to
R192, 43_transition R280 to R282). It is informative in the spec: the effect of a host command is the one of its own
rule, and nothing `exec` does depends on this file (log 10).
-/

namespace Sys2Proof.Machine

/-- Commands run one after another, stopping at the first outcome that is no next state. -/
def runProgram : List Instr → State → Result
  | [], s => .next s
  | i :: rest, s =>
    match exec i s with
    | .next s' => runProgram rest s'
    | .fault r => .fault r
    | .refused r => .refused r

/-- The row-port realisation of a host command on the state it finds (the realisation comments of R184 to R192, and R282 for
ADVANCE's rows); none for a command that uses no row command. -/
def realisation (i : Instr) (s : State) : List Instr :=
  match i with
  | .clear => (List.range s.h).map fun y => .rowClear (slotG y)
  | .putRandom => (List.range s.h).map fun y => .rowRandom (slotG y) s.w
  | .putFixedSeed => seedCells.map fun c => .rowSet (slotG c.2) c.1 (.imm true)
  | .getCell x y => [.rowGet (slotG y) x]
  | .setCell x y v => [.rowSet (slotG y) x (.imm v)]
  | .advance => (List.range s.h).flatMap fun y => rowProgram s.nbh s.w s.h y
  | _ => []

/-- The rows of N as a grid, an invalid slot read as zeros: what the commit copies into G (R268, R282). -/
def gridOfN (s : State) : List Row := s.mem.n.map fun o => o.getD (Row.zeros s.w)

/-- The reference ADVANCE sequence (R282): the checks of R266, the microprogram of every row, then the commit of the N
rows. -/
def referenceAdvance (s : State) : Result :=
  whenCreated s <|
  require (s.time.toNat < s.timeLimit) .timeOverflow s <|
  match runProgram (realisation .advance s) s with
  | .next s' => respond 0 (s'.commit (gridOfN s'))
  | .fault r => .fault r
  | .refused r => .refused r

end Sys2Proof.Machine
end

