-- ==== Sys2Proof/Safety.lean ====
section
/-!
DEFINITION. What a run is and what of it counts: the invariant of the reachable states, what the host observes (10_state
R51), the result of a run (70_reset R348), and the frames claims are stated with.
-/

namespace Sys2Proof.Safety

open Sys2Proof.Machine

/-! ### The invariant -/

/-- The row storage has its canonical form for the registers (R36, R37, R38). -/
abbrev StorageWf (s : State) : Prop := s.mem.wf s.w s.h s.params.numScratch s.params.maxWidth = true

/-- With a grid, its dimensions are legal (R32, R33); without one, they are 0, NBH is 0 and TIME is 0 (R31, R49). -/
abbrev GridWf (s : State) : Prop :=
  (s.created = true → 1 ≤ s.w ∧ s.w ≤ s.params.maxWidth ∧ 1 ≤ s.h ∧ s.h ≤ s.params.maxHeight) ∧
  (s.created = false → s.w = 0 ∧ s.h = 0 ∧ s.nbh = .vonNeumann ∧ s.time = 0)

/-- TIME is a value of `TW` bits (R35). -/
abbrev TimeWf (s : State) : Prop := s.time.toNat < 2 ^ s.params.timeWidth

/-- The fault record (R40, R301): clear while FAULTED = 0; in the fault state a code from 0x01 to 0x0A. -/
abbrev FaultWf (s : State) : Prop :=
  (s.faulted = false → s.fcode = 0 ∧ s.fcmd = 0) ∧
  (s.faulted = true → 1 ≤ s.fcode.toNat ∧ s.fcode.toNat ≤ 0x0A)

/-- The invariant of the machine: what every reachable state satisfies. -/
abbrev Inv (s : State) : Prop := s.params.Legal ∧ StorageWf s ∧ GridWf s ∧ TimeWf s ∧ FaultWf s

/-- A state in which every command runs: a grid has been created and no fault recorded. -/
abbrev Running (s : State) : Prop := s.created = true ∧ s.faulted = false

/-! ### Frames -/

/-- The registers of a created grid that no command but CREATE, CLEAR and ADVANCE writes: CREATED, WIDTH, HEIGHT, NBH, TIME;
with them the fault record, and the model's own parameters, pending events and latched host word. -/
abbrev SameRegisters (s t : State) : Prop :=
  t.created = s.created ∧ t.width = s.width ∧ t.height = s.height ∧ t.nbh = s.nbh ∧ t.time = s.time ∧
  t.faulted = s.faulted ∧ t.fcode = s.fcode ∧ t.fcmd = s.fcmd ∧
  t.params = s.params ∧ t.inbox = s.inbox ∧ t.hostWord = s.hostWord

/-- Every slot but `d` reads as before. -/
abbrev SameSlotsBut (d : Slot) (s t : State) : Prop := ∀ e : Slot, e ≠ d → t.mem.read e = s.mem.read e

/-- Every slot reads as before. -/
abbrev SameSlots (s t : State) : Prop := ∀ e : Slot, t.mem.read e = s.mem.read e

/-- Every G slot reads as before, every N and every T slot is invalid: what a host command that only reads the grid leaves
(R48, R181, R355; log 15 for N). -/
abbrev OnlyScratchDropped (s t : State) : Prop :=
  ∀ e : Slot, t.mem.read e = if e.space = .g then s.mem.read e else none

/-- The response of the last command. -/
abbrev Responds (t : State) (ok : Bool) (v : Word) : Prop := t.response = some ⟨ok, v⟩

/-- Every N and every T slot is invalid: what a host command that uses the row port leaves of the scratch spaces (R181,
R272, R355; log 15 for N). -/
abbrev ScratchInvalid (t : State) : Prop :=
  (∀ i, t.mem.read ⟨.n, i⟩ = none) ∧ ∀ i, t.mem.read ⟨.t, i⟩ = none

/-- A row command has written the row `v` to the slot `d` and nothing else: every other slot, every register, BREG and the
count of free values are as before, and the response is `(1, 0)` (R48, R104). -/
abbrev WroteOnly (d : Slot) (v : Row) (s t : State) : Prop :=
  t.mem.read d = some v ∧ SameSlotsBut d s t ∧ SameRegisters s t ∧ t.breg = s.breg ∧ t.draws = s.draws ∧
  Responds t true 0

/-- A slot operand names no slot: an index past HEIGHT in G or N, past NT in T (R130). -/
abbrev SlotMissing (s : State) (d : Slot) : Prop :=
  (d.space ≠ .t ∧ s.h ≤ d.index) ∨ (d.space = .t ∧ s.params.numScratch ≤ d.index)

/-- The slot operands of a command, the destination before the source (R93, R95, R96). -/
def namedSlots : Instr → List Slot
  | .create _ _ _ => []
  | .clear => []
  | .putRandom => []
  | .putFixedSeed => []
  | .advance => []
  | .getCell _ _ => []
  | .setCell _ _ _ => []
  | .readGen => []
  | .readWidth => []
  | .readHeight => []
  | .readStatus => []
  | .readFcmd => []
  | .rowCreate d _ => [d]
  | .rowRandom d _ => [d]
  | .rowGet d _ => [d]
  | .rowSet d _ _ => [d]
  | .rowClear d => [d]
  | .rowAnd d src => [d, src]
  | .rowOr d src => [d, src]
  | .rowXor d src => [d, src]
  | .rowNot d src => [d, src]
  | .rowCopy d src => [d, src]
  | .rowShl d _ => [d]
  | .rowShr d _ => [d]

/-- The slot operands whose row a command reads, so that they must be valid (R61, R132). -/
def readSlots : Instr → List Slot
  | .create _ _ _ => []
  | .clear => []
  | .putRandom => []
  | .putFixedSeed => []
  | .advance => []
  | .getCell _ _ => []
  | .setCell _ _ _ => []
  | .readGen => []
  | .readWidth => []
  | .readHeight => []
  | .readStatus => []
  | .readFcmd => []
  | .rowCreate _ _ => []
  | .rowRandom _ _ => []
  | .rowGet d _ => [d]
  | .rowSet d _ _ => [d]
  | .rowClear d => [d]
  | .rowAnd d src => [d, src]
  | .rowOr d src => [d, src]
  | .rowXor d src => [d, src]
  | .rowNot _ src => [src]
  | .rowCopy _ src => [src]
  | .rowShl d _ => [d]
  | .rowShr d _ => [d]

/-! ### Faults, refusals and reset -/

/-- Fault entry (R304): the fault record and the response are written and nothing else. -/
abbrev FaultEntry (f : FaultCode) (s t : State) : Prop :=
  t = { s with
    faulted := true
    fcode := faultNumber f
    fcmd := s.hostWord
    response := some ⟨false, (faultNumber f).setWidth 64⟩ }

/-- A command faults with `f`: its outcome is a next state, the one after fault entry. -/
abbrev Faults (f : FaultCode) (r : Result) (s : State) : Prop := ∃ t, r = .next t ∧ FaultEntry f s t

/-- A refusal in the fault state (R305): the response is `(0, FCODE)` and no state changes. -/
abbrev Refused (s t : State) : Prop := t = { s with response := some ⟨false, s.fcode.setWidth 64⟩ }

/-- The values of the state after reset (the table of R49). -/
abbrev ResetValues (t : State) : Prop :=
  t.created = false ∧ t.width = 0 ∧ t.height = 0 ∧ t.nbh = .vonNeumann ∧ t.time = 0 ∧
  t.mem.g = [] ∧ t.mem.n = [] ∧ t.mem.t = List.replicate t.params.numScratch none ∧
  t.breg = false ∧ t.faulted = false ∧ t.fcode = 0 ∧ t.fcmd = 0

/-- The next event is a reset (R340). -/
def resetNext (s : State) : Bool :=
  match s.inbox with
  | .reset :: _ => true
  | .resetDuring _ :: _ => true
  | _ => false

/-! ### What the host observes -/

/-- What the host can observe of a state through commands (R51): the cells, TIME, WIDTH, HEIGHT, STATUS and FCMD. -/
structure Observation where
  cells : List (List Bool)
  time : BitVec 64
  width : BitVec 20
  height : BitVec 20
  status : Word
  fcmd : Word
deriving DecidableEq, Repr

/-- The observation of a state (R51). -/
def observe (s : State) : Observation where
  cells := (List.range s.h).map fun y => (List.range s.w).map fun x => gridCell s.mem.g s.w x y
  time := s.time
  width := s.width
  height := s.height
  status := statusWord s
  fcmd := s.fcmd

/-- Two states that differ at most in what the host never reads: N, T, BREG (R47), and the model's count of free values. -/
abbrev SameVisible (s t : State) : Prop :=
  t.params = s.params ∧ t.created = s.created ∧ t.width = s.width ∧ t.height = s.height ∧ t.nbh = s.nbh ∧
  t.time = s.time ∧ t.mem.g = s.mem.g ∧ t.faulted = s.faulted ∧ t.fcode = s.fcode ∧ t.fcmd = s.fcmd ∧
  t.hostWord = s.hostWord ∧ t.inbox = s.inbox ∧ t.response = s.response

/-! ### Runs (R348) -/

/-- The host sends one word to an idle block and waits for the response (R352): the state after it. -/
def hostCommand (w : Word) (s : State) : Result := step { s with inbox := [.hostWord w] }

/-- A finite sequence of host words, each sent after the response to the one before (R348): the last state and the
responses in order. -/
def hostRun : List Word → State → Option (State × List (Option Response))
  | [], s => some (s, [])
  | w :: rest, s =>
    match hostCommand w s with
    | .next s' => (hostRun rest s').map fun p => (p.1, s'.response :: p.2)
    | .fault _ => none
    | .refused _ => none

/-- The result of a run (R348): N, T and BREG are not part of it. -/
structure RunResult where
  grid : List Row
  time : BitVec 64
  width : BitVec 20
  height : BitVec 20
  nbh : Neighborhood
  created : Bool
  faulted : Bool
  fcode : BitVec 8
  fcmd : Word
  responses : List (Option Response)
deriving DecidableEq, Repr

/-- The result of sending the words to the block right after reset. -/
def runResult (ws : List Word) : Option RunResult :=
  (hostRun ws State.reset).map fun p =>
    { grid := p.1.mem.g, time := p.1.time, width := p.1.width, height := p.1.height, nbh := p.1.nbh,
      created := p.1.created, faulted := p.1.faulted, fcode := p.1.fcode, fcmd := p.1.fcmd, responses := p.2 }

/-- A run that computed its generations: FAULTED = 0 at the end (R306). -/
def RunResult.completed (r : RunResult) : Bool := !r.faulted

end Sys2Proof.Safety
end

