-- ==== Sys2Proof/Certificates/Slice0/Obligations.lean ====
section
/-!
DEFINITION. The statements for the provers. Each formalises numbered rules of spec/ or rests on the sections its entry of
OBLIGATIONS.json cites; a clause that rests on a choice of the model says so and names the log entry.
-/

section

open Sys2Proof Sys2Proof.Machine Sys2Proof.Safety

/-! ### Reset and the invariant -/

/-- R49: the state after reset. -/
def Obligations.ResetStateIsEmptyMachine : Prop := ResetValues State.reset

/-- R340: the reset input puts every piece of state to the value of R49, without a response, between two commands or during
one, which then has no effect: both give the same state. That the events after the reset stay pending, and that the
parameters are the machine's, is the model's bookkeeping (logs 1, 2, 11). -/
def Obligations.ResetInputClearsTheMachine : Prop :=
  ∀ (s : State) (w : Word) (rest : List PortEvent), ∃ t : State,
    step { s with inbox := .reset :: rest } = .next t ∧
    step { s with inbox := .resetDuring w :: rest } = .next t ∧
    ResetValues t ∧ t.response = none ∧ t.params = s.params ∧ t.inbox = rest

/-- The state after reset satisfies the invariant. Its parameters are the model's choice (log 1). -/
def Obligations.ResetSatisfiesInvariant : Prop := Inv State.reset

/-- Every step keeps the invariant (R32, R33, R35 to R38, R40, R131) and the parameters. -/
def Obligations.EveryStepKeepsInvariant : Prop :=
  ∀ s t : State, Inv s → step s = .next t → Inv t ∧ t.params = s.params

/-! ### Encoding -/

/-- Decoding the word of a well-formed command on its port gives the command back. -/
def Obligations.DecodeOfEncode : Prop :=
  ∀ i : Instr, i.wellFormed = true → decode i.opcode.port (encode i) = .ok i

/-- A word that decodes is the word of the well-formed command it decodes to, on that command's port: no bit of a word is
ignored (R99). -/
def Obligations.EncodeOfDecode : Prop :=
  ∀ (p : Port) (w : Word) (i : Instr), decode p w = .ok i →
    encode i = w ∧ i.wellFormed = true ∧ i.opcode.port = p

/-- A word decodes on a port exactly if it matches a row of R99 that the port accepts, no space field the row uses is 3
(R94), and it is no ROW_SET with VS = V = 1 (R101); and it decodes to a command of that row. No word matches two rows
(R99). -/
def Obligations.DecodeIffOneRowMatches : Prop :=
  (∀ (p : Port) (w : Word) (op : Opcode),
    (∃ i, decode p w = .ok i ∧ i.opcode = op) ↔
      op.port = p ∧ w &&& op.mask = op.matchWord ∧
      (op.format ≠ .h → fieldDsp w ≠ 3#2) ∧ (op.format = .r → fieldSsp w ≠ 3#2) ∧
      (op = .rowSet → ¬(fieldVs w = true ∧ fieldV w = true))) ∧
  ∀ (w : Word) (a b : Opcode), w &&& a.mask = a.matchWord → w &&& b.mask = b.matchWord → a = b

/-- R100: reserved opcodes are illegal on either port, so is the all-zero word, and so is a word, on the port of its
assigned opcode, with a 1 in a bit the mask fixes to 0 (on the other port R102 applies, by the order of R103). -/
def Obligations.ReservedEncodingsAreIllegal : Prop :=
  ∀ s : State, s.faulted = false →
    (∀ (p : Port) (w : Word),
      ((fieldOpc w).toNat = 0x00 ∨ (0x0D ≤ (fieldOpc w).toNat ∧ (fieldOpc w).toNat ≤ 0x0F) ∨
        0x1C ≤ (fieldOpc w).toNat) →
      Faults .illegalCommand (runAccepted ⟨p, w, s⟩) s) ∧
    (∀ p : Port, Faults .illegalCommand (runAccepted ⟨p, 0#64, s⟩) s) ∧
    ∀ (op : Opcode) (w : Word), fieldOpc w = op.bits → w &&& op.mask ≠ op.matchWord →
      Faults .illegalCommand (runAccepted ⟨op.port, w, s⟩) s

/-- R102: every encoding that is not the word of a command of the port faults; an opcode of the row port faults on the host
port with ROW_PORT_PRIVILEGE and an opcode of the host port faults on the row port with ILLEGAL_COMMAND. -/
def Obligations.WrongPortOpcodesFault : Prop :=
  ∀ (s : State) (w : Word), s.faulted = false →
    (∀ p : Port, (∀ i : Instr, i.wellFormed = true → i.opcode.port = p → encode i ≠ w) →
      ∃ f, Faults f (runAccepted ⟨p, w, s⟩) s) ∧
    (0x10 ≤ (fieldOpc w).toNat ∧ (fieldOpc w).toNat ≤ 0x1B →
      Faults .rowPortPrivilege (runAccepted ⟨.host, w, s⟩) s) ∧
    (0x01 ≤ (fieldOpc w).toNat ∧ (fieldOpc w).toNat ≤ 0x0C →
      Faults .illegalCommand (runAccepted ⟨.row, w, s⟩) s)

/-- R107: the worked encodings. -/
def Obligations.DecodesWorkedWords : Prop :=
  decode .host 0x0500000000500005#64 = .ok (.create 5 5 .moore) ∧
  decode .host 0x0400000000800008#64 = .ok (.create 8 8 .vonNeumann) ∧
  decode .host 0x0800000000000000#64 = .ok .clear ∧
  decode .host 0x1000000000000000#64 = .ok .putFixedSeed ∧
  decode .host 0x1400000000000000#64 = .ok .advance ∧
  decode .host 0x1800000000200003#64 = .ok (.getCell 2 3) ∧
  decode .host 0x1E00000000100002#64 = .ok (.setCell 1 2 true) ∧
  decode .host 0x2000000000000000#64 = .ok .readGen ∧
  decode .row 0x4020000300000046#64 = .ok (.rowCreate ⟨.t, 3⟩ 70) ∧
  decode .row 0x4800000400000002#64 = .ok (.rowGet ⟨.g, 4⟩ 2) ∧
  decode .row 0x4D20000000000000#64 = .ok (.rowSet ⟨.t, 0⟩ 0 .breg) ∧
  decode .row 0x4E10000200000007#64 = .ok (.rowSet ⟨.n, 2⟩ 7 (.imm true)) ∧
  decode .row 0x5000000100000000#64 = .ok (.rowClear ⟨.g, 1⟩) ∧
  decode .row 0x542000060020000A#64 = .ok (.rowAnd ⟨.t, 6⟩ ⟨.t, 10⟩) ∧
  decode .row 0x5C20000800000000#64 = .ok (.rowXor ⟨.t, 8⟩ ⟨.g, 0⟩) ∧
  decode .row 0x6020000A00200007#64 = .ok (.rowNot ⟨.t, 10⟩ ⟨.t, 7⟩) ∧
  decode .row 0x6410000100200000#64 = .ok (.rowCopy ⟨.n, 1⟩ ⟨.t, 0⟩) ∧
  decode .row 0x6820000000000001#64 = .ok (.rowShl ⟨.t, 0⟩ 1) ∧
  decode .row 0x6C20000200000040#64 = .ok (.rowShr ⟨.t, 2⟩ 64)

/-! ### The step -/

/-- A step runs the decoded command: the next event is taken from the inputs, the word of a host command is latched for fault
entry (log 4), and nothing else happens around the command. A word the decoder faults enters the fault state with the
decoder's code, or is refused in the fault state (R103, R304, R305; for a row word in the fault state, which no sequencer
sends, the refusal is the model's choice, log 7). With no event at its inputs the block keeps all state (R326, R342). -/
def Obligations.StepRunsDecodedCommand : Prop :=
  ∀ (s : State) (w : Word) (rest : List PortEvent),
    (∀ i, s.inbox = .hostWord w :: rest → decode .host w = .ok i →
      step s = exec i { s with inbox := rest, hostWord := w }) ∧
    (∀ i, s.inbox = .rowWord w :: rest → decode .row w = .ok i →
      step s = exec i { s with inbox := rest }) ∧
    (∀ f, s.inbox = .hostWord w :: rest → decode .host w = .error f → ∃ t, step s = .next t ∧
      if s.faulted = false then FaultEntry f { s with inbox := rest, hostWord := w } t
      else Refused { s with inbox := rest, hostWord := w } t) ∧
    (∀ f, s.inbox = .rowWord w :: rest → decode .row w = .error f → ∃ t, step s = .next t ∧
      if s.faulted = false then FaultEntry f { s with inbox := rest } t
      else Refused { s with inbox := rest } t) ∧
    (s.inbox = [] → step s = .next s)

/-- Every step answers a next state, and every command word gets a response (R104, R361): the block never hangs. -/
def Obligations.EveryStepAnswersANextState : Prop :=
  ∀ s : State, ∃ t, step s = .next t ∧
    ∀ (w : Word) (rest : List PortEvent),
      s.inbox = .hostWord w :: rest ∨ s.inbox = .rowWord w :: rest → ∃ r, t.response = some r

/-! ### Faults -/

/-- A fault is precise (R304). Whatever the word, if the block is in the fault state after it and was not before, the state is
the one before with the fault record and the response written, and nothing else. FCMD is the word of the host command
being executed: for a host word that word; for a row word the last host word accepted, which is the model's choice where
no host command is being executed, as under a harness (log 4). -/
def Obligations.FaultsArePrecise : Prop :=
  ∀ (s t : State) (w : Word) (rest : List PortEvent), s.faulted = false → step s = .next t → t.faulted = true →
    (s.inbox = .hostWord w :: rest →
      ∃ f, t.fcmd = w ∧ FaultEntry f { s with inbox := rest, hostWord := w } t) ∧
    (s.inbox = .rowWord w :: rest →
      ∃ f, t.fcmd = s.hostWord ∧ FaultEntry f { s with inbox := rest } t)

/-- In the fault state a host word that decodes to READ_STATUS or READ_FCMD executes, every other one is refused with the
response `(0, FCODE)` and no change of state, and only reset leaves the fault state (R305). A row word is refused alike,
whether it decodes or not, and so is every command but the two reads, of either port, whose meaning runs (R130, R310
step 3; that the response to a row word is that of R305 is log 7). -/
def Obligations.FaultStateRefusesCommands : Prop :=
  ∀ (s : State), s.faulted = true →
    (∀ (w : Word) (rest : List PortEvent), s.inbox = .hostWord w :: rest → ∃ t, step s = .next t ∧
      if decode .host w = .ok .readStatus then
        t = { s with inbox := rest, hostWord := w, response := some ⟨true, statusWord s⟩ }
      else if decode .host w = .ok .readFcmd then
        t = { s with inbox := rest, hostWord := w, response := some ⟨true, s.fcmd⟩ }
      else Refused { s with inbox := rest, hostWord := w } t) ∧
    (∀ (w : Word) (rest : List PortEvent), s.inbox = .rowWord w :: rest → ∃ t, step s = .next t ∧
      Refused { s with inbox := rest } t) ∧
    (∀ i : Instr, i.opcode ≠ .readStatus → i.opcode ≠ .readFcmd → ∃ t, exec i s = .next t ∧ Refused s t) ∧
    ∀ t : State, step s = .next t → resetNext s = false → t.faulted = true

/-- R306: every observation of the grid after a fault is the one the fault left, whatever host words follow. -/
def Obligations.FaultedRunsObserveNoChange : Prop :=
  ∀ (ws : List Word) (s : State), s.faulted = true → ∃ t rs, hostRun ws s = some (t, rs) ∧
    t.faulted = true ∧ observe t = observe s

/-- But for reset, no step of a machine in canonical form changes WIDTH, HEIGHT or NBH of a created grid, destroys it or
changes the number of its rows (R31 to R34, R36, R183, R343). -/
def Obligations.OnlyResetEndsTheGrid : Prop :=
  ∀ s t : State, StorageWf s → step s = .next t → resetNext s = false → s.created = true →
    t.created = true ∧ t.width = s.width ∧ t.height = s.height ∧ t.nbh = s.nbh ∧ t.mem.g.length = s.mem.g.length

/-- R35: CREATE and CLEAR set TIME to 0, a successful ADVANCE adds exactly 1, no other command writes it, and an ADVANCE at
`2^TW - 1` faults and does not wrap. -/
def Obligations.TimeIsWrittenByThreeCommands : Prop :=
  ∀ (i : Instr) (s t : State), s.params.Legal → TimeWf s → s.faulted = false → exec i s = .next t →
    TimeWf t ∧
    match i with
    | .create _ _ _ => if t.faulted = false then t.time = 0 else t.time = s.time
    | .clear => if t.faulted = false then t.time = 0 else t.time = s.time
    | .advance =>
      if t.faulted = false then t.time.toNat = s.time.toNat + 1
      else t.time = s.time ∧
        (s.created = true → s.time.toNat = 2 ^ s.params.timeWidth - 1 ∧ t.fcode = faultNumber .timeOverflow)
    | _ => t.time = s.time

/-! ### The grid commands -/

/-- R50: the state after a successful CREATE. That a slot of G past HEIGHT reads as no row, and the frame of the model's own
fields, is the model's bookkeeping. -/
def Obligations.CreateBuildsDeadGrid : Prop :=
  ∀ (s : State) (w h : Nat) (nbh : Neighborhood), s.params.Legal → s.created = false → s.faulted = false →
    1 ≤ w → w ≤ s.params.maxWidth → 1 ≤ h → h ≤ s.params.maxHeight →
    ∃ t, exec (.create w h nbh) s = .next t ∧
      t.created = true ∧ t.width.toNat = w ∧ t.height.toNat = h ∧ t.nbh = nbh ∧ t.time = 0 ∧
      (∀ y, t.mem.read ⟨.g, y⟩ = if y < h then some (Row.zeros w) else none) ∧
      (∀ y, t.mem.read ⟨.n, y⟩ = none) ∧ (∀ i, t.mem.read ⟨.t, i⟩ = none) ∧
      t.breg = s.breg ∧ t.faulted = s.faulted ∧ t.fcode = s.fcode ∧ t.fcmd = s.fcmd ∧
      Responds t true 0 ∧
      t.params = s.params ∧ t.inbox = s.inbox ∧ t.hostWord = s.hostWord ∧ t.draws = s.draws

/-- R180's faults: a second CREATE, whatever its operands, and a width or height of 0 or above its maximum. -/
def Obligations.CreateFaults : Prop :=
  ∀ (s : State) (w h : Nat) (nbh : Neighborhood), s.faulted = false →
    (s.created = true → Faults .alreadyCreated (exec (.create w h nbh) s) s) ∧
    (s.created = false → w = 0 ∨ s.params.maxWidth < w ∨ h = 0 ∨ s.params.maxHeight < h →
      Faults .badDimension (exec (.create w h nbh) s) s)

/-- Before CREATE every command but CREATE, READ_STATUS and READ_FCMD faults with NOT_CREATED, before any other check of its
own (R130, R181). -/
def Obligations.CommandsBeforeCreateFault : Prop :=
  ∀ (i : Instr) (s : State), s.created = false → s.faulted = false →
    i.opcode ≠ .create → i.opcode ≠ .readStatus → i.opcode ≠ .readFcmd →
    Faults .notCreated (exec i s) s

/-- CLEAR (R184): every cell dies and TIME becomes 0; nothing is reallocated. Every T and every N slot is invalid after it
(R181, R355; that R48's dash for N is read so is log 15). BREG is unspecified after it (R181), so nothing is said of
it. -/
def Obligations.ClearKillsEveryCell : Prop :=
  ∀ s : State, Running s → ∃ t, exec .clear s = .next t ∧
    t.time = 0 ∧ (∀ y, y < s.h → t.mem.read ⟨.g, y⟩ = some (Row.zeros s.w)) ∧
    ScratchInvalid t ∧ SameRegisters { s with time := 0 } t ∧ Responds t true 0

/-- R185: CLEAR followed at once by CLEAR leaves the same state as one CLEAR, and READ_GEN returns 0 after each. BREG holds an
unspecified value after both (R181) and is left out, with the model's count of free values. -/
def Obligations.ClearTwiceEqualsOnce : Prop :=
  ∀ s : State, Running s → ∃ t u, exec .clear s = .next t ∧ exec .clear t = .next u ∧
    { u with breg := t.breg, draws := t.draws } = t ∧
    (∃ t', exec .readGen t = .next t' ∧ Responds t' true 0) ∧
    ∃ u', exec .readGen u = .next u' ∧ Responds u' true 0

/-- PUT_RANDOM (R186, R187): every row is replaced by a draw of its own, whatever is drawn, and no later draw is one of
these; TIME is not changed. The numbering of the draws is the model's (log 5). Every T and every N slot is invalid after it
(R181, R355; that R48's dash for N is read so is log 15). -/
def Obligations.PutRandomReplacesEveryRow : Prop :=
  ∀ s : State, Running s → ∃ t, exec .putRandom s = .next t ∧
    (∀ y, y < s.h → t.mem.read ⟨.g, y⟩ = some ⟨s.w, Config.drawBits (s.draws + y) s.w⟩) ∧
    s.draws + s.h ≤ t.draws ∧
    ScratchInvalid t ∧ SameRegisters s t ∧ Responds t true 0

/-- PUT_FIXED_SEED (R188, R358): the five cells are set and every other cell keeps its value; on a grid narrower or lower than 3
it faults before any cell is written. Every T and every N slot is invalid after a completed one (R181, R355; that R48's
dash for N is read so is log 15). -/
def Obligations.PutFixedSeedSetsFiveCells : Prop :=
  ∀ s : State, Running s → StorageWf s →
    (3 ≤ s.w → 3 ≤ s.h → ∃ t, exec .putFixedSeed s = .next t ∧
      (∀ x y, x < s.w → y < s.h →
        gridCell t.mem.g s.w x y =
          (decide ((x, y) ∈ [(1, 0), (2, 0), (0, 1), (1, 1), (1, 2)]) || gridCell s.mem.g s.w x y)) ∧
      StorageWf t ∧ ScratchInvalid t ∧ SameRegisters s t ∧ Responds t true 0) ∧
    (s.w < 3 ∨ s.h < 3 → Faults .indexRange (exec .putFixedSeed s) s)

/-- GET_CELL (R190): the cell, zero-extended, and no effect on the grid; a coordinate out of range faults. Every T and every
N slot is invalid after a completed one (R181, R355; that R48's dash for N is read so is log 15). -/
def Obligations.GetCellReturnsTheCell : Prop :=
  ∀ (s : State) (x y : Nat), Running s →
    (∀ r, x < s.w → y < s.h → s.mem.read ⟨.g, y⟩ = some r →
      ∃ t, exec (.getCell x y) s = .next t ∧
        Responds t true (if r.bits.getLsbD x then 1 else 0) ∧ OnlyScratchDropped s t ∧ SameRegisters s t) ∧
    (s.w ≤ x ∨ s.h ≤ y → Faults .indexRange (exec (.getCell x y) s) s)

/-- SET_CELL (R192): the cell becomes `v` and no other cell changes; TIME is not changed; a coordinate out of range faults.
Every T and every N slot is invalid after a completed one (R181, R355; that R48's dash for N is read so is log 15). -/
def Obligations.SetCellWritesOneCell : Prop :=
  ∀ (s : State) (x y : Nat) (v : Bool), Running s → StorageWf s →
    (x < s.w → y < s.h → ∃ t, exec (.setCell x y v) s = .next t ∧
      (∀ x' y', x' < s.w → y' < s.h →
        gridCell t.mem.g s.w x' y' = if x' = x ∧ y' = y then v else gridCell s.mem.g s.w x' y') ∧
      StorageWf t ∧ ScratchInvalid t ∧ SameRegisters s t ∧ Responds t true 0) ∧
    (s.w ≤ x ∨ s.h ≤ y → Faults .indexRange (exec (.setCell x y v) s) s)

/-- The register reads (R194 to R198): READ_GEN, READ_WIDTH and READ_HEIGHT return the register, zero-extended, on a running
block; READ_STATUS and READ_FCMD execute in every state, also without a grid and in the fault state. Nothing else
changes. -/
def Obligations.ReadCommandsReturnTheRegisters : Prop :=
  ∀ s : State,
    (Running s →
      exec .readGen s = .next { s with response := some ⟨true, s.time⟩ } ∧
      exec .readWidth s = .next { s with response := some ⟨true, s.width.setWidth 64⟩ } ∧
      exec .readHeight s = .next { s with response := some ⟨true, s.height.setWidth 64⟩ }) ∧
    exec .readStatus s = .next { s with response := some ⟨true, statusWord s⟩ } ∧
    exec .readFcmd s = .next { s with response := some ⟨true, s.fcmd⟩ }

/-- R41: the STATUS word that READ_STATUS returns, field by field; reading it changes no state. The 0x00 of FCODE while
FAULTED = 0 is the register's (`FaultWf`). -/
def Obligations.StatusWordFields : Prop :=
  ∀ s : State, FaultWf s → ∃ v : Word, exec .readStatus s = .next { s with response := some ⟨true, v⟩ } ∧
    v.getLsbD 0 = s.created ∧
    v.getLsbD 1 = (if s.created = false then false else decide (s.nbh = .moore)) ∧
    v.getLsbD 2 = s.faulted ∧
    (∀ i, 3 ≤ i → i ≤ 7 → v.getLsbD i = false) ∧
    v.extractLsb' 8 8 = s.fcode ∧
    (s.faulted = false → v.extractLsb' 8 8 = 0x00#8) ∧
    ∀ i, 16 ≤ i → v.getLsbD i = false

/-! ### ADVANCE -/

/-- ADVANCE (R265, R266, R268, R272): below the TIME limit every cell becomes the rule of its state and its neighbor count in
the old generation, TIME is one more, and every N and T slot is invalid. -/
def Obligations.AdvanceComputesNextGeneration : Prop :=
  ∀ s : State, Inv s → Running s → s.time.toNat < 2 ^ s.params.timeWidth - 1 →
    ∃ t, exec .advance s = .next t ∧
      (∀ x y, x < s.w → y < s.h →
        gridCell t.mem.g s.w x y =
          (neighborCount s.nbh s.mem.g s.w s.h x y == 3 ||
            (gridCell s.mem.g s.w x y && neighborCount s.nbh s.mem.g s.w s.h x y == 2))) ∧
      t.time.toNat = s.time.toNat + 1 ∧
      ScratchInvalid t ∧ StorageWf t ∧ SameRegisters { s with time := t.time } t ∧ Responds t true 0

/-- R271: ADVANCE at the largest TIME faults and changes nothing. -/
def Obligations.AdvanceAtTimeLimitFaults : Prop :=
  ∀ s : State, Running s → s.time.toNat = 2 ^ s.params.timeWidth - 1 →
    Faults .timeOverflow (exec .advance s) s

/-- R274: over any commands without CREATE and CLEAR, all of them successful, READ_GEN afterwards returns as many more as
there were ADVANCE commands. -/
def Obligations.TimeCountsTheAdvances : Prop :=
  ∀ (prog : List Instr) (s : State), s.params.Legal → TimeWf s → Running s →
    (∀ i ∈ prog, i.opcode ≠ .create ∧ i.opcode ≠ .clear) →
    ∃ t, runProgram prog s = .next t ∧
      (t.faulted = false →
        t.time.toNat = s.time.toNat + prog.count .advance ∧
        ∃ u, exec .readGen t = .next u ∧ Responds u true t.time)

/-- The row microprograms (R280, R281, R273): on every row of a created grid the 76 or 34 row commands raise no fault, read
the committed rows, and leave in `N[y]` the next row of R263; only N[y], the scratch slots and BREG change. -/
def Obligations.RowMicroprogramsComputeNextRow : Prop :=
  ∀ (s : State) (y : Nat), Inv s → Running s → y < s.h →
    (rowProgram s.nbh s.w s.h y).length = (match s.nbh with | .moore => 76 | .vonNeumann => 34) ∧
    ∃ t, runProgram (rowProgram s.nbh s.w s.h y) s = .next t ∧
      t.mem.read ⟨.n, y⟩ = some (nextRow s.nbh s.mem.g s.w s.h y) ∧
      (∀ e : Slot, e.space ≠ .t → e ≠ ⟨.n, y⟩ → t.mem.read e = s.mem.read e) ∧
      SameRegisters s t

/-- The reference ADVANCE sequence (R282), the row microprograms run on the row port and the commit, gives the outcome of
ADVANCE in every state of the invariant. That `exec` uses the counter's contract is log 10. -/
def Obligations.ReferenceAdvanceIsAdvance : Prop :=
  ∀ s : State, Inv s → referenceAdvance s = exec .advance s

/-- The row-port realisations of the other host commands (R181, R184 to R192): when the host command's own checks pass, its
realisation raises no fault and gives the command's outcome. -/
def Obligations.RowRealisationsGiveTheHostCommands : Prop :=
  ∀ s : State, Inv s → Running s →
    (∃ t, runProgram (realisation .clear s) s = .next t ∧
      exec .clear s = respond 0 (t.setTime 0).endRowUse) ∧
    (∃ t, runProgram (realisation .putRandom s) s = .next t ∧
      exec .putRandom s = respond 0 t.endRowUse) ∧
    (3 ≤ s.w → 3 ≤ s.h → ∃ t, runProgram (realisation .putFixedSeed s) s = .next t ∧
      exec .putFixedSeed s = respond 0 t.endRowUse) ∧
    ∀ x y, x < s.w → y < s.h →
      (∃ t, runProgram (realisation (.getCell x y) s) s = .next t ∧
        exec (.getCell x y) s = respond (valueOfBit t.breg) t.endRowUse) ∧
      ∀ v, ∃ t, runProgram (realisation (.setCell x y v) s) s = .next t ∧
        exec (.setCell x y v) s = respond 0 t.endRowUse

/-! ### The counter, the detector and the rule -/

/-- R226: the adders add position by position, with no carry from one position to another. -/
def Obligations.AddersSumEachPosition : Prop :=
  ∀ (n : Nat) (x y z : Row), x.count = n → y.count = n → z.count = n → ∀ i, i < n →
    (fullAdder x y z).sum.bit i = (x.bit i ^^ y.bit i ^^ z.bit i) ∧
    (fullAdder x y z).carry.bit i = ((x.bit i && y.bit i) || (z.bit i && (x.bit i ^^ y.bit i))) ∧
    (x.bit i).toNat + (y.bit i).toNat + (z.bit i).toNat =
      ((fullAdder x y z).sum.bit i).toNat + 2 * ((fullAdder x y z).carry.bit i).toNat ∧
    (halfAdder x y).sum.bit i = (x.bit i ^^ y.bit i) ∧
    (halfAdder x y).carry.bit i = (x.bit i && y.bit i) ∧
    (x.bit i).toNat + (y.bit i).toNat =
      ((halfAdder x y).sum.bit i).toNat + 2 * ((halfAdder x y).carry.bit i).toNat

/-- The planes of a row hold the neighbors at the offsets of R222 and R223, so that their sum is the neighbor count of R224,
in `0 .. 8` or `0 .. 4`, on every grid from 1x1 up. -/
def Obligations.PlanesSumToTheNeighborCount : Prop :=
  ∀ (nbh : Neighborhood) (g : List Row) (w h : Nat), g.length = h → (∀ r ∈ g, r.count = w) →
    ∀ x y, x < w → y < h →
      (planes nbh g w h y).map (fun r => r.bit x) = (offsets nbh).map (neighborCell g w h x y) ∧
      planeCount (planes nbh g w h y) x = neighborCount nbh g w h x y ∧
      neighborCount .moore g w h x y ≤ 8 ∧ neighborCount .vonNeumann g w h x y ≤ 4

/-- R230, and R231 for four planes: on planes of equal count the reference networks give the masks of the counter's contract
R227. -/
def Obligations.NetworksMeetTheCounter : Prop :=
  ∀ (w : Nat) (p0 p1 p2 p3 p4 p5 p6 p7 : Row),
    p0.count = w → p1.count = w → p2.count = w → p3.count = w →
    p4.count = w → p5.count = w → p6.count = w → p7.count = w →
    mooreNetwork p0 p1 p2 p3 p4 p5 p6 p7 = counter w [p0, p1, p2, p3, p4, p5, p6, p7] ∧
    vonNeumannNetwork p0 p1 p2 p3 = counter w [p0, p1, p2, p3]

/-- R232: the masks do not depend on the order of the planes. -/
def Obligations.CounterIgnoresPlaneOrder : Prop :=
  ∀ (w : Nat) (ps qs : List Row), ps.Perm qs → counter w ps = counter w qs

/-- R260: the rule and its table. -/
def Obligations.RuleTable : Prop :=
  (∀ n, lifeRule false n = decide (n = 3)) ∧
  (∀ n, lifeRule true n = decide (n = 2 ∨ n = 3)) ∧
  (List.range 9).map (lifeRule false) = [false, false, false, true, false, false, false, false, false] ∧
  (List.range 9).map (lifeRule true) = [false, false, true, true, false, false, false, false, false]

/-- The threshold detector on the counter's masks applies the rule at every position (R263, R264). -/
def Obligations.DetectorAppliesTheRule : Prop :=
  ∀ (c : Row) (ps : List Row), ∀ x, x < c.count →
    (detector c (counter c.count ps)).bit x = lifeRule (c.bit x) (planeCount ps x)

/-! ### The row commands -/

/-- ROW_CREATE (R134): the slot, valid before or not, becomes an all-zero row of the given count. -/
def Obligations.RowCreateMakesZeroRow : Prop :=
  ∀ (s : State) (d : Slot) (n : Nat), StorageWf s → Running s → ¬SlotMissing s d →
    1 ≤ n → n ≤ s.params.maxWidth → (d.space ≠ .t → n = s.w) →
    ∃ t, exec (.rowCreate d n) s = .next t ∧ WroteOnly d (Row.zeros n) s t

/-- ROW_RANDOM (R136): the slot, valid before or not, becomes a draw of the given count, whatever is drawn; the next draw is
another one (the numbering is the model's, log 5). -/
def Obligations.RowRandomDrawsARow : Prop :=
  ∀ (s : State) (d : Slot) (n : Nat), StorageWf s → Running s → ¬SlotMissing s d →
    1 ≤ n → n ≤ s.params.maxWidth → (d.space ≠ .t → n = s.w) →
    ∃ t, exec (.rowRandom d n) s = .next t ∧
      t.draws = s.draws + 1 ∧ WroteOnly d ⟨n, Config.drawBits s.draws n⟩ { s with draws := t.draws } t

/-- ROW_GET (R140): the bit goes to BREG and, zero-extended, to the response; no slot changes (R139). -/
def Obligations.RowGetReadsOneBit : Prop :=
  ∀ (s : State) (d : Slot) (idx : Nat) (r : Row), Running s → ¬SlotMissing s d →
    s.mem.read d = some r → idx < r.count →
    ∃ t, exec (.rowGet d idx) s = .next t ∧
      t.breg = r.bits.getLsbD idx ∧ Responds t true (if r.bits.getLsbD idx then 1 else 0) ∧
      SameSlots s t ∧ SameRegisters s t ∧ t.draws = s.draws

/-- ROW_SET (R141): the bit becomes V or BREG; no other bit of any slot changes (R139). -/
def Obligations.RowSetWritesOneBit : Prop :=
  ∀ (s : State) (d : Slot) (idx : Nat) (src : BitSource) (r : Row), Running s → ¬SlotMissing s d →
    s.mem.read d = some r → idx < r.count →
    ∃ t v, exec (.rowSet d idx src) s = .next t ∧ WroteOnly d v s t ∧ v.count = r.count ∧
      (∀ b, src = .imm b → v.bit idx = b) ∧ (src = .breg → v.bit idx = s.breg) ∧
      ∀ j, j ≠ idx → v.bit j = r.bit j

/-- ROW_CLEAR (R143): every bit becomes 0 and the count stays. -/
def Obligations.RowClearKeepsTheCount : Prop :=
  ∀ (s : State) (d : Slot) (r : Row), Running s → ¬SlotMissing s d → s.mem.read d = some r →
    ∃ t v, exec (.rowClear d) s = .next t ∧ WroteOnly d v s t ∧ v.count = r.count ∧ ∀ j, v.bit j = false

/-- ROW_AND, ROW_OR and ROW_XOR (R145 to R147): the destination becomes the bitwise combination of both rows. -/
def Obligations.RowBitwiseCommandsCombine : Prop :=
  ∀ (s : State) (d src : Slot) (a b : Row), Running s → ¬SlotMissing s d → ¬SlotMissing s src →
    s.mem.read d = some a → s.mem.read src = some b → a.count = b.count →
    (∃ t v, exec (.rowAnd d src) s = .next t ∧ WroteOnly d v s t ∧ v.count = a.count ∧
      ∀ j, j < a.count → v.bit j = (a.bit j && b.bit j)) ∧
    (∃ t v, exec (.rowOr d src) s = .next t ∧ WroteOnly d v s t ∧ v.count = a.count ∧
      ∀ j, j < a.count → v.bit j = (a.bit j || b.bit j)) ∧
    ∃ t v, exec (.rowXor d src) s = .next t ∧ WroteOnly d v s t ∧ v.count = a.count ∧
      ∀ j, j < a.count → v.bit j = (a.bit j ^^ b.bit j)

/-- ROW_NOT and ROW_COPY (R148 to R150): the destination, valid before or not, becomes the inverted or the same bits of the
source, with the source's count. -/
def Obligations.RowNotAndCopyReplace : Prop :=
  ∀ (s : State) (d src : Slot) (b : Row), StorageWf s → Running s → ¬SlotMissing s d → ¬SlotMissing s src →
    s.mem.read src = some b → (d.space ≠ .t → b.count = s.w) →
    (∃ t v, exec (.rowNot d src) s = .next t ∧ WroteOnly d v s t ∧ v.count = b.count ∧
      ∀ j, j < b.count → v.bit j = !b.bit j) ∧
    ∃ t, exec (.rowCopy d src) s = .next t ∧ WroteOnly d b s t

/-- ROW_SHL and ROW_SHR (R153, R154): masking shifts; every legal amount runs, also one above the count. -/
def Obligations.RowShiftsMask : Prop :=
  ∀ (s : State) (d : Slot) (k : Nat) (r : Row), Running s → ¬SlotMissing s d → s.mem.read d = some r →
    0 < k → k ≤ s.params.wordWidth →
    (∃ t v, exec (.rowShl d k) s = .next t ∧ WroteOnly d v s t ∧ v.count = r.count ∧
      ∀ i, i < r.count → v.bit i = if k ≤ i then r.bit (i - k) else false) ∧
    ∃ t v, exec (.rowShr d k) s = .next t ∧ WroteOnly d v s t ∧ v.count = r.count ∧
      ∀ i, i < r.count → v.bit i = if i + k < r.count then r.bit (i + k) else false

/-- R142: after a ROW_SET, in every state that still reads the slot as that left it, a ROW_GET of the bit returns the written
value, and a ROW_GET of another bit returns what it returned before. -/
def Obligations.RowGetSeesRowSet : Prop :=
  ∀ (s : State) (d : Slot) (idx : Nat) (src : BitSource) (r : Row), Running s → ¬SlotMissing s d →
    s.mem.read d = some r → idx < r.count →
    ∃ t, exec (.rowSet d idx src) s = .next t ∧
      ∀ t' : State, Running t' → ¬SlotMissing t' d → t'.mem.read d = t.mem.read d →
        (∃ u, exec (.rowGet d idx) t' = .next u ∧ Responds u true (valueOfBit (bitValue s src))) ∧
        ∀ j, j < r.count → j ≠ idx → ∃ u v, exec (.rowGet d j) t' = .next u ∧ exec (.rowGet d j) s = .next v ∧
          u.response = v.response ∧ u.breg = v.breg

/-- R151: with the same slot as destination and source, AND, OR and COPY leave it as it was, XOR gives zeros, NOT inverts. -/
def Obligations.SameSlotIsReadBeforeTheWrite : Prop :=
  ∀ (s : State) (d : Slot) (r : Row), StorageWf s → Running s → ¬SlotMissing s d → s.mem.read d = some r →
    (∃ t, exec (.rowAnd d d) s = .next t ∧ WroteOnly d r s t) ∧
    (∃ t, exec (.rowOr d d) s = .next t ∧ WroteOnly d r s t) ∧
    (∃ t, exec (.rowXor d d) s = .next t ∧ WroteOnly d (Row.zeros r.count) s t) ∧
    (∃ t, exec (.rowNot d d) s = .next t ∧ WroteOnly d r.not s t) ∧
    ∃ t, exec (.rowCopy d d) s = .next t ∧ WroteOnly d r s t

/-- A slot operand that names no slot faults with INDEX_RANGE before every other check of a running block (R130, R310). -/
def Obligations.MissingSlotsFault : Prop :=
  ∀ (i : Instr) (s : State), Running s → (∃ d ∈ namedSlots i, SlotMissing s d) →
    Faults .indexRange (exec i s) s

/-- R132: a command that reads an invalid slot, as a source or as the destination it modifies, faults with UNALLOCATED_ROW
(before its immediate and its counts are checked, R310); G slots are always valid. -/
def Obligations.InvalidSlotsFault : Prop :=
  (∀ (i : Instr) (s : State), StorageWf s → Running s → (∀ d ∈ namedSlots i, ¬SlotMissing s d) →
    (∃ d ∈ readSlots i, s.mem.read d = none) → Faults .unallocatedRow (exec i s) s) ∧
  ∀ (s : State) (y : Nat), StorageWf s → y < s.h → ∃ r, s.mem.read ⟨.g, y⟩ = some r ∧ r.count = s.w

/-- R133, R138 and R152: a count, a bit index or a shift amount out of its range faults; the bound on a shift amount does not
depend on the row's count. -/
def Obligations.ImmediateRangesAreChecked : Prop :=
  ∀ (s : State) (d : Slot), Running s → ¬SlotMissing s d →
    (∀ n, n = 0 ∨ s.params.maxWidth < n →
      Faults .badDimension (exec (.rowCreate d n) s) s ∧ Faults .badDimension (exec (.rowRandom d n) s) s) ∧
    ∀ r, s.mem.read d = some r →
      (∀ idx v, r.count ≤ idx →
        Faults .indexRange (exec (.rowGet d idx) s) s ∧ Faults .indexRange (exec (.rowSet d idx v) s) s) ∧
      (∀ k, k = 0 ∨ s.params.wordWidth < k →
        Faults .shiftRange (exec (.rowShl d k) s) s ∧ Faults .shiftRange (exec (.rowShr d k) s) s) ∧
      ∀ k, 0 < k → k ≤ s.params.wordWidth →
        (∃ t, exec (.rowShl d k) s = .next t ∧ Responds t true 0) ∧
        ∃ t, exec (.rowShr d k) s = .next t ∧ Responds t true 0

/-- ROW_AND, ROW_OR and ROW_XOR of rows of different counts fault with COUNT_MISMATCH (R144), and so does a command that would
write a row whose count is not WIDTH to a slot of G or N (R131). -/
def Obligations.CountDisagreementsFault : Prop :=
  ∀ (s : State) (d : Slot), Running s → ¬SlotMissing s d →
    (∀ src a b, ¬SlotMissing s src → s.mem.read d = some a → s.mem.read src = some b → a.count ≠ b.count →
      Faults .countMismatch (exec (.rowAnd d src) s) s ∧ Faults .countMismatch (exec (.rowOr d src) s) s ∧
      Faults .countMismatch (exec (.rowXor d src) s) s) ∧
    (d.space ≠ .t →
      (∀ n, 1 ≤ n → n ≤ s.params.maxWidth → n ≠ s.w →
        Faults .countMismatch (exec (.rowCreate d n) s) s ∧ Faults .countMismatch (exec (.rowRandom d n) s) s) ∧
      ∀ src b, ¬SlotMissing s src → s.mem.read src = some b → b.count ≠ s.w →
        Faults .countMismatch (exec (.rowNot d src) s) s ∧ Faults .countMismatch (exec (.rowCopy d src) s) s)

/-- The pseudo-commands of the row port (R106): where their condition holds, ROW_ROTL1 and ROW_ROTR1 rotate, ROW_HA and ROW_FA
leave the sum and the carry, and no slot changes but those they name as results (for ROW_FA also `t`). -/
def Obligations.PseudoCommandsHaveTheirEffect : Prop :=
  ∀ s : State, Inv s → Running s →
    (∀ (d src : Slot) (r : Row), (Pseudo.rotl1 d src r.count).admissible = true →
      ¬SlotMissing s d → ¬SlotMissing s src → s.mem.read src = some r → (d.space ≠ .t → r.count = s.w) →
      (∃ t, runProgram (Pseudo.rotl1 d src r.count).expand s = .next t ∧
        t.mem.read d = some (r.rotl 1) ∧ SameSlotsBut d s t ∧ SameRegisters s t) ∧
      ∃ t, runProgram (Pseudo.rotr1 d src r.count).expand s = .next t ∧
        t.mem.read d = some (r.rotr 1) ∧ SameSlotsBut d s t ∧ SameRegisters s t) ∧
    (∀ (a c x y : Slot) (p q : Row), (Pseudo.ha a c x y).admissible = true →
      (∀ e ∈ [a, c, x, y], ¬SlotMissing s e) → s.mem.read x = some p → s.mem.read y = some q → p.count = q.count →
      (∀ e ∈ [a, c], e.space ≠ .t → p.count = s.w) →
      ∃ t, runProgram (Pseudo.ha a c x y).expand s = .next t ∧
        t.mem.read a = some (halfAdder p q).sum ∧ t.mem.read c = some (halfAdder p q).carry ∧
        (∀ e, e ≠ a → e ≠ c → t.mem.read e = s.mem.read e) ∧ SameRegisters s t) ∧
    ∀ (a c x y z b : Slot) (p q r : Row), (Pseudo.fa a c x y z b).admissible = true →
      (∀ e ∈ [a, c, x, y, z, b], ¬SlotMissing s e) → s.mem.read x = some p → s.mem.read y = some q →
      s.mem.read z = some r → p.count = q.count → q.count = r.count →
      (∀ e ∈ [a, c, b], e.space ≠ .t → p.count = s.w) →
      ∃ t, runProgram (Pseudo.fa a c x y z b).expand s = .next t ∧
        t.mem.read a = some (fullAdder p q r).sum ∧ t.mem.read c = some (fullAdder p q r).carry ∧
        (∀ e, e ≠ a → e ≠ c → e ≠ b → t.mem.read e = s.mem.read e) ∧ SameRegisters s t

/-! ### Rows and words -/

/-- R155: a masking shift whose lost bits the caller writes back is a rotation. -/
def Obligations.PatchedShiftIsRotation : Prop :=
  ∀ (r : Row) (w k : Nat), 0 < k → k ≤ min w r.count →
    (r.shl k).patch 0 k (fun i => r.bit (r.count - k + i)) = r.rotl k ∧
    (r.shr k).patch (r.count - k) k r.bit = r.rotr k

/-- R63: bit `i` of a row is bit `i mod W` of word `i div W`, the padding reads as 0, and the number of words is
`ceil(n / W)`. -/
def Obligations.WordsHoldTheBits : Prop :=
  ∀ (w : Nat) (r : Row), 1 ≤ w →
    (∀ i, i < r.count → (r.word w (i / w)).getLsbD (i % w) = r.bit i) ∧
    (∀ j p, p < w → r.count ≤ j * w + p → (r.word w j).getLsbD p = false) ∧
    (∀ j, (r.word w j).toNat =
      ((List.range w).map fun p => if j * w + p < r.count then (r.bit (j * w + p)).toNat * 2 ^ p else 0).sum) ∧
    (r.words w).length * w < r.count + w ∧ r.count ≤ (r.words w).length * w

/-- The word-level realisation of the shifts (R156): for `0 < k ≤ W` each word of the result comes from two words of the row,
with the padding cleared. -/
def Obligations.WordShiftsRealiseRowShifts : Prop :=
  ∀ (w k : Nat) (r : Row), 1 ≤ w → 0 < k → k ≤ w → ∀ j, j < wordCount w r.count →
    (r.shl k).word w j = clearPadding w r.count j (shlWord w (r.word w) k j) ∧
    (r.shr k).word w j = clearPadding w r.count j (shrWord w (r.word w) k j)

/-! ### What the host cannot see -/

/-- R47: no host observation tells apart two machines that differ in N, T and BREG only: from both, the same host words give
the same responses and leave states that again differ there only. The two machines take the same free values (log 5). -/
def Obligations.HostCannotSeeScratchState : Prop :=
  ∀ (ws : List Word) (s₁ s₂ : State), SameVisible s₁ s₂ → s₁.draws = s₂.draws →
    ∃ t₁ t₂ rs, hostRun ws s₁ = some (t₁, rs) ∧ hostRun ws s₂ = some (t₂, rs) ∧
      SameVisible t₁ t₂ ∧ t₁.draws = t₂.draws ∧ observe t₁ = observe t₂

end
end

