-- ==== Sys2Proof/Laws/Encoding.lean ====
section
/-!
SUPPORT. The fields of an encoded word, format by format (30_encoding R91 to R97), and an encoded word under a mask (R99).
-/

namespace Sys2Proof

/-! ### Format H (R91) -/

theorem encodeH_partOpc (op : BitVec 6) (v nb : Bool) (a b : Nat) :
    (encodeH op v nb a b).extractLsb' 58 6 = op := by
  unfold encodeH
  erw [BitVec.extractLsb'_append_eq_of_le (by decide),
    BitVec.extractLsb'_append_eq_of_le (by decide),
    BitVec.extractLsb'_append_eq_of_le (by decide),
    BitVec.extractLsb'_append_eq_of_le (by decide),
    BitVec.extractLsb'_append_eq_of_le (by decide)]
  exact BitVec.extractLsb'_eq_self

@[simp] theorem fieldOpc_encodeH (op : BitVec 6) (v nb : Bool) (a b : Nat) : fieldOpc (encodeH op v nb a b) = op :=
  encodeH_partOpc op v nb a b

theorem encodeH_partV (op : BitVec 6) (v nb : Bool) (a b : Nat) :
    (encodeH op v nb a b).extractLsb' 57 1 = BitVec.ofBool v := by
  unfold encodeH
  erw [BitVec.extractLsb'_append_eq_of_le (by decide),
    BitVec.extractLsb'_append_eq_of_le (by decide),
    BitVec.extractLsb'_append_eq_of_le (by decide),
    BitVec.extractLsb'_append_eq_of_le (by decide),
    BitVec.extractLsb'_append_eq_of_add_le (by decide)]
  exact BitVec.extractLsb'_eq_self

@[simp] theorem fieldV_encodeH (op : BitVec 6) (v nb : Bool) (a b : Nat) : fieldV (encodeH op v nb a b) = v := by
  have h := congrArg (fun x => x.getLsbD 0) (encodeH_partV op v nb a b)
  simpa [fieldV, BitVec.getLsbD_extractLsb'] using h

theorem encodeH_partNb (op : BitVec 6) (v nb : Bool) (a b : Nat) :
    (encodeH op v nb a b).extractLsb' 56 1 = BitVec.ofBool nb := by
  unfold encodeH
  erw [BitVec.extractLsb'_append_eq_of_le (by decide),
    BitVec.extractLsb'_append_eq_of_le (by decide),
    BitVec.extractLsb'_append_eq_of_le (by decide),
    BitVec.extractLsb'_append_eq_of_add_le (by decide)]
  exact BitVec.extractLsb'_eq_self

@[simp] theorem fieldNb_encodeH (op : BitVec 6) (v nb : Bool) (a b : Nat) : fieldNb (encodeH op v nb a b) = nb := by
  have h := congrArg (fun x => x.getLsbD 0) (encodeH_partNb op v nb a b)
  simpa [fieldNb, BitVec.getLsbD_extractLsb'] using h

theorem encodeH_partA (op : BitVec 6) (v nb : Bool) (a b : Nat) :
    (encodeH op v nb a b).extractLsb' 20 20 = BitVec.ofNat 20 a := by
  unfold encodeH
  erw [BitVec.extractLsb'_append_eq_of_le (by decide),
    BitVec.extractLsb'_append_eq_of_add_le (by decide)]
  exact BitVec.extractLsb'_eq_self

@[simp] theorem fieldA_encodeH (op : BitVec 6) (v nb : Bool) (a b : Nat) : fieldA (encodeH op v nb a b) = a % 2 ^ 20 := by
  rw [fieldA, encodeH_partA, BitVec.toNat_ofNat]

theorem encodeH_partB (op : BitVec 6) (v nb : Bool) (a b : Nat) :
    (encodeH op v nb a b).extractLsb' 0 20 = BitVec.ofNat 20 b := by
  unfold encodeH
  erw [BitVec.extractLsb'_append_eq_of_add_le (by decide)]
  exact BitVec.extractLsb'_eq_self

@[simp] theorem fieldB_encodeH (op : BitVec 6) (v nb : Bool) (a b : Nat) : fieldB (encodeH op v nb a b) = b % 2 ^ 20 := by
  rw [fieldB, encodeH_partB, BitVec.toNat_ofNat]

/-- A word of format H under a mask, part by part. -/
theorem encodeH_and (op : BitVec 6) (v nb : Bool) (a b : Nat)
    (m0 : BitVec 6) (m1 : BitVec 1) (m2 : BitVec 1) (m3 : BitVec 16) (m4 : BitVec 20) (m5 : BitVec 20) :
    encodeH op v nb a b &&& (m0 ++ m1 ++ m2 ++ m3 ++ m4 ++ m5 : BitVec (6 + 1 + 1 + 16 + 20 + 20)) =
      ((op &&& m0) ++ (BitVec.ofBool v &&& m1) ++ (BitVec.ofBool nb &&& m2) ++ (0#16 &&& m3) ++ (BitVec.ofNat 20 a &&& m4) ++ (BitVec.ofNat 20 b &&& m5) : BitVec (6 + 1 + 1 + 16 + 20 + 20)) := by
  unfold encodeH
  erw [BitVec.and_append, BitVec.and_append, BitVec.and_append, BitVec.and_append, BitVec.and_append]

/-! ### Format R (R93) -/

theorem encodeR_partOpc (op : BitVec 6) (d src : Slot) :
    (encodeR op d src).extractLsb' 58 6 = op := by
  unfold encodeR
  erw [BitVec.extractLsb'_append_eq_of_le (by decide),
    BitVec.extractLsb'_append_eq_of_le (by decide),
    BitVec.extractLsb'_append_eq_of_le (by decide),
    BitVec.extractLsb'_append_eq_of_le (by decide),
    BitVec.extractLsb'_append_eq_of_le (by decide),
    BitVec.extractLsb'_append_eq_of_le (by decide)]
  exact BitVec.extractLsb'_eq_self

@[simp] theorem fieldOpc_encodeR (op : BitVec 6) (d src : Slot) : fieldOpc (encodeR op d src) = op :=
  encodeR_partOpc op d src

theorem encodeR_partDsp (op : BitVec 6) (d src : Slot) :
    (encodeR op d src).extractLsb' 52 2 = d.space.bits := by
  unfold encodeR
  erw [BitVec.extractLsb'_append_eq_of_le (by decide),
    BitVec.extractLsb'_append_eq_of_le (by decide),
    BitVec.extractLsb'_append_eq_of_le (by decide),
    BitVec.extractLsb'_append_eq_of_le (by decide),
    BitVec.extractLsb'_append_eq_of_add_le (by decide)]
  exact BitVec.extractLsb'_eq_self

@[simp] theorem fieldDsp_encodeR (op : BitVec 6) (d src : Slot) : fieldDsp (encodeR op d src) = d.space.bits :=
  encodeR_partDsp op d src

theorem encodeR_partDi (op : BitVec 6) (d src : Slot) :
    (encodeR op d src).extractLsb' 32 20 = BitVec.ofNat 20 d.index := by
  unfold encodeR
  erw [BitVec.extractLsb'_append_eq_of_le (by decide),
    BitVec.extractLsb'_append_eq_of_le (by decide),
    BitVec.extractLsb'_append_eq_of_le (by decide),
    BitVec.extractLsb'_append_eq_of_add_le (by decide)]
  exact BitVec.extractLsb'_eq_self

@[simp] theorem fieldDi_encodeR (op : BitVec 6) (d src : Slot) : fieldDi (encodeR op d src) = d.index % 2 ^ 20 := by
  rw [fieldDi, encodeR_partDi, BitVec.toNat_ofNat]

theorem encodeR_partSsp (op : BitVec 6) (d src : Slot) :
    (encodeR op d src).extractLsb' 20 2 = src.space.bits := by
  unfold encodeR
  erw [BitVec.extractLsb'_append_eq_of_le (by decide),
    BitVec.extractLsb'_append_eq_of_add_le (by decide)]
  exact BitVec.extractLsb'_eq_self

@[simp] theorem fieldSsp_encodeR (op : BitVec 6) (d src : Slot) : fieldSsp (encodeR op d src) = src.space.bits :=
  encodeR_partSsp op d src

theorem encodeR_partSi (op : BitVec 6) (d src : Slot) :
    (encodeR op d src).extractLsb' 0 20 = BitVec.ofNat 20 src.index := by
  unfold encodeR
  erw [BitVec.extractLsb'_append_eq_of_add_le (by decide)]
  exact BitVec.extractLsb'_eq_self

@[simp] theorem fieldSi_encodeR (op : BitVec 6) (d src : Slot) : fieldSi (encodeR op d src) = src.index % 2 ^ 20 := by
  rw [fieldSi, encodeR_partSi, BitVec.toNat_ofNat]

/-- A word of format R under a mask, part by part. -/
theorem encodeR_and (op : BitVec 6) (d src : Slot)
    (m0 : BitVec 6) (m1 : BitVec 4) (m2 : BitVec 2) (m3 : BitVec 20) (m4 : BitVec 10) (m5 : BitVec 2) (m6 : BitVec 20) :
    encodeR op d src &&& (m0 ++ m1 ++ m2 ++ m3 ++ m4 ++ m5 ++ m6 : BitVec (6 + 4 + 2 + 20 + 10 + 2 + 20)) =
      ((op &&& m0) ++ (0#4 &&& m1) ++ (d.space.bits &&& m2) ++ (BitVec.ofNat 20 d.index &&& m3) ++ (0#10 &&& m4) ++ (src.space.bits &&& m5) ++ (BitVec.ofNat 20 src.index &&& m6) : BitVec (6 + 4 + 2 + 20 + 10 + 2 + 20)) := by
  unfold encodeR
  erw [BitVec.and_append, BitVec.and_append, BitVec.and_append, BitVec.and_append, BitVec.and_append, BitVec.and_append]

/-! ### Format RI (R95) -/

theorem encodeRI_partOpc (op : BitVec 6) (v vs : Bool) (d : Slot) (imm : Nat) :
    (encodeRI op v vs d imm).extractLsb' 58 6 = op := by
  unfold encodeRI
  erw [BitVec.extractLsb'_append_eq_of_le (by decide),
    BitVec.extractLsb'_append_eq_of_le (by decide),
    BitVec.extractLsb'_append_eq_of_le (by decide),
    BitVec.extractLsb'_append_eq_of_le (by decide),
    BitVec.extractLsb'_append_eq_of_le (by decide),
    BitVec.extractLsb'_append_eq_of_le (by decide),
    BitVec.extractLsb'_append_eq_of_le (by decide)]
  exact BitVec.extractLsb'_eq_self

@[simp] theorem fieldOpc_encodeRI (op : BitVec 6) (v vs : Bool) (d : Slot) (imm : Nat) : fieldOpc (encodeRI op v vs d imm) = op :=
  encodeRI_partOpc op v vs d imm

theorem encodeRI_partV (op : BitVec 6) (v vs : Bool) (d : Slot) (imm : Nat) :
    (encodeRI op v vs d imm).extractLsb' 57 1 = BitVec.ofBool v := by
  unfold encodeRI
  erw [BitVec.extractLsb'_append_eq_of_le (by decide),
    BitVec.extractLsb'_append_eq_of_le (by decide),
    BitVec.extractLsb'_append_eq_of_le (by decide),
    BitVec.extractLsb'_append_eq_of_le (by decide),
    BitVec.extractLsb'_append_eq_of_le (by decide),
    BitVec.extractLsb'_append_eq_of_le (by decide),
    BitVec.extractLsb'_append_eq_of_add_le (by decide)]
  exact BitVec.extractLsb'_eq_self

@[simp] theorem fieldV_encodeRI (op : BitVec 6) (v vs : Bool) (d : Slot) (imm : Nat) : fieldV (encodeRI op v vs d imm) = v := by
  have h := congrArg (fun x => x.getLsbD 0) (encodeRI_partV op v vs d imm)
  simpa [fieldV, BitVec.getLsbD_extractLsb'] using h

theorem encodeRI_partVs (op : BitVec 6) (v vs : Bool) (d : Slot) (imm : Nat) :
    (encodeRI op v vs d imm).extractLsb' 56 1 = BitVec.ofBool vs := by
  unfold encodeRI
  erw [BitVec.extractLsb'_append_eq_of_le (by decide),
    BitVec.extractLsb'_append_eq_of_le (by decide),
    BitVec.extractLsb'_append_eq_of_le (by decide),
    BitVec.extractLsb'_append_eq_of_le (by decide),
    BitVec.extractLsb'_append_eq_of_le (by decide),
    BitVec.extractLsb'_append_eq_of_add_le (by decide)]
  exact BitVec.extractLsb'_eq_self

@[simp] theorem fieldVs_encodeRI (op : BitVec 6) (v vs : Bool) (d : Slot) (imm : Nat) : fieldVs (encodeRI op v vs d imm) = vs := by
  have h := congrArg (fun x => x.getLsbD 0) (encodeRI_partVs op v vs d imm)
  simpa [fieldVs, BitVec.getLsbD_extractLsb'] using h

theorem encodeRI_partDsp (op : BitVec 6) (v vs : Bool) (d : Slot) (imm : Nat) :
    (encodeRI op v vs d imm).extractLsb' 52 2 = d.space.bits := by
  unfold encodeRI
  erw [BitVec.extractLsb'_append_eq_of_le (by decide),
    BitVec.extractLsb'_append_eq_of_le (by decide),
    BitVec.extractLsb'_append_eq_of_le (by decide),
    BitVec.extractLsb'_append_eq_of_add_le (by decide)]
  exact BitVec.extractLsb'_eq_self

@[simp] theorem fieldDsp_encodeRI (op : BitVec 6) (v vs : Bool) (d : Slot) (imm : Nat) : fieldDsp (encodeRI op v vs d imm) = d.space.bits :=
  encodeRI_partDsp op v vs d imm

theorem encodeRI_partDi (op : BitVec 6) (v vs : Bool) (d : Slot) (imm : Nat) :
    (encodeRI op v vs d imm).extractLsb' 32 20 = BitVec.ofNat 20 d.index := by
  unfold encodeRI
  erw [BitVec.extractLsb'_append_eq_of_le (by decide),
    BitVec.extractLsb'_append_eq_of_le (by decide),
    BitVec.extractLsb'_append_eq_of_add_le (by decide)]
  exact BitVec.extractLsb'_eq_self

@[simp] theorem fieldDi_encodeRI (op : BitVec 6) (v vs : Bool) (d : Slot) (imm : Nat) : fieldDi (encodeRI op v vs d imm) = d.index % 2 ^ 20 := by
  rw [fieldDi, encodeRI_partDi, BitVec.toNat_ofNat]

theorem encodeRI_partImm (op : BitVec 6) (v vs : Bool) (d : Slot) (imm : Nat) :
    (encodeRI op v vs d imm).extractLsb' 0 20 = BitVec.ofNat 20 imm := by
  unfold encodeRI
  erw [BitVec.extractLsb'_append_eq_of_add_le (by decide)]
  exact BitVec.extractLsb'_eq_self

@[simp] theorem fieldImm_encodeRI (op : BitVec 6) (v vs : Bool) (d : Slot) (imm : Nat) : fieldImm (encodeRI op v vs d imm) = imm % 2 ^ 20 := by
  rw [fieldImm, encodeRI_partImm, BitVec.toNat_ofNat]

/-- A word of format RI under a mask, part by part. -/
theorem encodeRI_and (op : BitVec 6) (v vs : Bool) (d : Slot) (imm : Nat)
    (m0 : BitVec 6) (m1 : BitVec 1) (m2 : BitVec 1) (m3 : BitVec 2) (m4 : BitVec 2) (m5 : BitVec 20) (m6 : BitVec 12) (m7 : BitVec 20) :
    encodeRI op v vs d imm &&& (m0 ++ m1 ++ m2 ++ m3 ++ m4 ++ m5 ++ m6 ++ m7 : BitVec (6 + 1 + 1 + 2 + 2 + 20 + 12 + 20)) =
      ((op &&& m0) ++ (BitVec.ofBool v &&& m1) ++ (BitVec.ofBool vs &&& m2) ++ (0#2 &&& m3) ++ (d.space.bits &&& m4) ++ (BitVec.ofNat 20 d.index &&& m5) ++ (0#12 &&& m6) ++ (BitVec.ofNat 20 imm &&& m7) : BitVec (6 + 1 + 1 + 2 + 2 + 20 + 12 + 20)) := by
  unfold encodeRI
  erw [BitVec.and_append, BitVec.and_append, BitVec.and_append, BitVec.and_append, BitVec.and_append, BitVec.and_append, BitVec.and_append]

/-! ### Format R1 (R96) -/

theorem encodeR1_partOpc (op : BitVec 6) (d : Slot) :
    (encodeR1 op d).extractLsb' 58 6 = op := by
  unfold encodeR1
  erw [BitVec.extractLsb'_append_eq_of_le (by decide),
    BitVec.extractLsb'_append_eq_of_le (by decide),
    BitVec.extractLsb'_append_eq_of_le (by decide),
    BitVec.extractLsb'_append_eq_of_le (by decide)]
  exact BitVec.extractLsb'_eq_self

@[simp] theorem fieldOpc_encodeR1 (op : BitVec 6) (d : Slot) : fieldOpc (encodeR1 op d) = op :=
  encodeR1_partOpc op d

theorem encodeR1_partDsp (op : BitVec 6) (d : Slot) :
    (encodeR1 op d).extractLsb' 52 2 = d.space.bits := by
  unfold encodeR1
  erw [BitVec.extractLsb'_append_eq_of_le (by decide),
    BitVec.extractLsb'_append_eq_of_le (by decide),
    BitVec.extractLsb'_append_eq_of_add_le (by decide)]
  exact BitVec.extractLsb'_eq_self

@[simp] theorem fieldDsp_encodeR1 (op : BitVec 6) (d : Slot) : fieldDsp (encodeR1 op d) = d.space.bits :=
  encodeR1_partDsp op d

theorem encodeR1_partDi (op : BitVec 6) (d : Slot) :
    (encodeR1 op d).extractLsb' 32 20 = BitVec.ofNat 20 d.index := by
  unfold encodeR1
  erw [BitVec.extractLsb'_append_eq_of_le (by decide),
    BitVec.extractLsb'_append_eq_of_add_le (by decide)]
  exact BitVec.extractLsb'_eq_self

@[simp] theorem fieldDi_encodeR1 (op : BitVec 6) (d : Slot) : fieldDi (encodeR1 op d) = d.index % 2 ^ 20 := by
  rw [fieldDi, encodeR1_partDi, BitVec.toNat_ofNat]

/-- A word of format R1 under a mask, part by part. -/
theorem encodeR1_and (op : BitVec 6) (d : Slot)
    (m0 : BitVec 6) (m1 : BitVec 4) (m2 : BitVec 2) (m3 : BitVec 20) (m4 : BitVec 32) :
    encodeR1 op d &&& (m0 ++ m1 ++ m2 ++ m3 ++ m4 : BitVec (6 + 4 + 2 + 20 + 32)) =
      ((op &&& m0) ++ (0#4 &&& m1) ++ (d.space.bits &&& m2) ++ (BitVec.ofNat 20 d.index &&& m3) ++ (0#32 &&& m4) : BitVec (6 + 4 + 2 + 20 + 32)) := by
  unfold encodeR1
  erw [BitVec.and_append, BitVec.and_append, BitVec.and_append, BitVec.and_append]

/-! ### Spaces (R94) -/

@[simp] theorem spaceOfBits_bits (sp : Space) : spaceOfBits sp.bits = some sp := by cases sp <;> rfl

@[simp] theorem opcodeOfBits_bits (op : Opcode) : opcodeOfBits op.bits = some op := by cases op <;> rfl

@[simp] theorem neighborhoodOfBit_bit (nbh : Neighborhood) : neighborhoodOfBit nbh.bit = nbh := by cases nbh <;> rfl

@[simp] theorem bitSourceOf_v_vs (v : BitSource) : bitSourceOf v.v v.vs = v := by cases v <;> rfl

/-- An operand that fits its field is not cut (R92). -/
theorem fitsField_mod (n : Nat) (h : fitsField n = true) : n % 2 ^ 20 = n :=
  Nat.mod_eq_of_lt (by simpa [fitsField] using h)

/-- The same with the modulus as a numeral, the form `simp` leaves. -/
theorem fitsField_mod_numeral (n : Nat) (h : fitsField n = true) : n % 1048576 = n := fitsField_mod n h

end Sys2Proof
end

