-- ==== Sys2Proof/Laws/RowValue.lean ====
section
/-!
SUPPORT. Row values bit by bit: the bit and the count of every operation of Machine/RowValue.lean, and that a row is its
count and its bits.
-/

namespace Sys2Proof.Machine

/-! ### Rows are their bits -/

theorem Row.bit_of_le (r : Row) (i : Nat) (h : r.count ≤ i) : r.bit i = false :=
  BitVec.getLsbD_of_ge _ _ h

/-- Two rows of equal count whose bits agree are equal. -/
theorem Row.ext_bit (a b : Row) (hc : a.count = b.count) (h : ∀ i, i < a.count → a.bit i = b.bit i) : a = b := by
  obtain ⟨n, x⟩ := a
  obtain ⟨m, y⟩ := b
  obtain rfl : n = m := hc
  congr 1
  exact BitVec.eq_of_getLsbD_eq fun i hi => h i hi

/-! ### Rows built bit by bit -/

theorem tabulateBits_getLsbD (n : Nat) (f : Nat → Bool) (i : Nat) :
    (tabulateBits n f).getLsbD i = (decide (i < n) && f i) := by
  induction n with
  | zero => simp [tabulateBits]
  | succ n ih =>
    simp only [tabulateBits, BitVec.getLsbD_cons, ih]
    by_cases h : i = n
    · subst h; simp
    · simp only [h, if_false]
      congr 1
      simp only [decide_eq_decide]
      omega

@[simp] theorem Row.tabulate_count (n : Nat) (f : Nat → Bool) : (Row.tabulate n f).count = n := rfl

@[simp] theorem Row.tabulate_bit (n : Nat) (f : Nat → Bool) (i : Nat) :
    (Row.tabulate n f).bit i = (decide (i < n) && f i) := tabulateBits_getLsbD n f i

/-- A row is the tabulation of its bits. -/
theorem Row.eq_tabulate (r : Row) : r = Row.tabulate r.count r.bit :=
  Row.ext_bit _ _ rfl fun i hi => by simp [hi]

theorem Row.tabulate_congr (n : Nat) (f f' : Nat → Bool) (h : ∀ i, i < n → f i = f' i) :
    Row.tabulate n f = Row.tabulate n f' :=
  Row.ext_bit _ _ rfl fun i hi => by
    have hi' : i < n := hi
    simp [h i hi']

/-! ### Counts -/

@[simp] theorem Row.zeros_count (n : Nat) : (Row.zeros n).count = n := rfl
@[simp] theorem Row.and_count (a b : Row) : (a.and b).count = a.count := rfl
@[simp] theorem Row.or_count (a b : Row) : (a.or b).count = a.count := rfl
@[simp] theorem Row.xor_count (a b : Row) : (a.xor b).count = a.count := rfl
@[simp] theorem Row.not_count (a : Row) : a.not.count = a.count := rfl
@[simp] theorem Row.shl_count (a : Row) (k : Nat) : (a.shl k).count = a.count := rfl
@[simp] theorem Row.shr_count (a : Row) (k : Nat) : (a.shr k).count = a.count := rfl
@[simp] theorem Row.setBit_count (a : Row) (i : Nat) (v : Bool) : (a.setBit i v).count = a.count := rfl
@[simp] theorem Row.rotl_count (a : Row) (k : Nat) : (a.rotl k).count = a.count := rfl
@[simp] theorem Row.rotr_count (a : Row) (k : Nat) : (a.rotr k).count = a.count := rfl
@[simp] theorem Row.patch_count (a : Row) (b k : Nat) (f : Nat → Bool) : (a.patch b k f).count = a.count := rfl
@[simp] theorem Row.west_count (a : Row) : a.west.count = a.count := rfl
@[simp] theorem Row.east_count (a : Row) : a.east.count = a.count := rfl
@[simp] theorem State.draw_count (s : State) (k n : Nat) : (s.draw k n).count = n := rfl

/-! ### Bits -/

@[simp] theorem Row.zeros_bit (n i : Nat) : (Row.zeros n).bit i = false := BitVec.getLsbD_zero

@[simp] theorem Row.and_bit (a b : Row) (i : Nat) : (a.and b).bit i = (a.bit i && b.bit i) := by
  by_cases h : i < a.count
  · simp [Row.and, Row.bit, h]
  · simp [Row.and, Row.bit, BitVec.getLsbD_of_ge _ _ (Nat.le_of_not_lt h)]

/-- The bits of an OR inside the count. -/
theorem Row.or_bit (a b : Row) (i : Nat) (h : i < a.count) : (a.or b).bit i = (a.bit i || b.bit i) := by
  simp [Row.or, Row.bit, h]

/-- The bits of an XOR inside the count. -/
theorem Row.xor_bit (a b : Row) (i : Nat) (h : i < a.count) : (a.xor b).bit i = (a.bit i ^^ b.bit i) := by
  simp [Row.xor, Row.bit, h]

/-- The bits of an OR of rows of equal count. -/
theorem Row.or_bit_of_count (a b : Row) (hc : b.count = a.count) (i : Nat) :
    (a.or b).bit i = (a.bit i || b.bit i) := by
  by_cases h : i < a.count
  · exact Row.or_bit a b i h
  · rw [Row.bit_of_le _ _ (by simp; omega), Row.bit_of_le a _ (by omega), Row.bit_of_le b _ (by omega)]
    rfl

/-- The bits of an XOR of rows of equal count. -/
theorem Row.xor_bit_of_count (a b : Row) (hc : b.count = a.count) (i : Nat) :
    (a.xor b).bit i = (a.bit i ^^ b.bit i) := by
  by_cases h : i < a.count
  · exact Row.xor_bit a b i h
  · rw [Row.bit_of_le _ _ (by simp; omega), Row.bit_of_le a _ (by omega), Row.bit_of_le b _ (by omega)]
    rfl

@[simp] theorem Row.not_bit (a : Row) (i : Nat) : a.not.bit i = (decide (i < a.count) && !a.bit i) := by
  simp [Row.not, Row.bit]

/-- Bit `i` of a left shift is bit `i - k`, or 0 below `k` (R153). -/
@[simp] theorem Row.shl_bit (a : Row) (k i : Nat) :
    (a.shl k).bit i = (decide (i < a.count) && decide (k ≤ i) && a.bit (i - k)) := by
  simp only [Row.shl, Row.bit, BitVec.getLsbD_shiftLeft]
  by_cases h : i < k
  · simp [h, Nat.not_le.mpr h]
  · simp [h, Nat.le_of_not_lt h]

/-- Bit `i` of a right shift is bit `i + k`, or 0 past the end (R154). -/
@[simp] theorem Row.shr_bit (a : Row) (k i : Nat) : (a.shr k).bit i = a.bit (i + k) := by
  simp [Row.shr, Row.bit, BitVec.getLsbD_ushiftRight, Nat.add_comm]

@[simp] theorem Row.setBit_bit (a : Row) (i j : Nat) (v : Bool) :
    (a.setBit i v).bit j = (decide (j < a.count) && if j = i then v else a.bit j) := by
  simp [Row.setBit]

@[simp] theorem Row.rotl_bit (a : Row) (k i : Nat) :
    (a.rotl k).bit i = (decide (i < a.count) && a.bit (wrap ((i : Int) - (k : Int)) a.count)) := by
  simp [Row.rotl]

@[simp] theorem Row.rotr_bit (a : Row) (k i : Nat) :
    (a.rotr k).bit i = (decide (i < a.count) && a.bit (wrap ((i : Int) + (k : Int)) a.count)) := by
  simp [Row.rotr]

theorem Row.patch_bit (a : Row) (b k i : Nat) (f : Nat → Bool) :
    (a.patch b k f).bit i = (decide (i < a.count) && if b ≤ i ∧ i < b + k then f (i - b) else a.bit i) := by
  simp [Row.patch]

theorem Row.west_bit (a : Row) (i : Nat) :
    a.west.bit i = (decide (i < a.count) && a.bit (wrap ((i : Int) + (-1)) a.count)) := by
  simp [Row.west, Int.sub_eq_add_neg]

theorem Row.east_bit (a : Row) (i : Nat) :
    a.east.bit i = (decide (i < a.count) && a.bit (wrap ((i : Int) + 1) a.count)) := by
  simp [Row.east]

/-! ### Wrapping -/

theorem wrap_lt (a : Int) (n : Nat) (h : 0 < n) : wrap a n < n := by
  have h1 := Int.emod_lt_of_pos a (show (0 : Int) < n by omega)
  have h2 := Int.emod_nonneg a (show (n : Int) ≠ 0 by omega)
  unfold wrap
  omega

theorem wrap_of_lt (i n : Nat) (h : i < n) : wrap (i : Int) n = i := by
  unfold wrap
  rw [Int.emod_eq_of_lt (by omega) (by omega)]
  simp

/-! ### The masks and the detector -/

@[simp] theorem counter_eq2_count (w : Nat) (ps : List Row) : (counter w ps).eq2.count = w := rfl
@[simp] theorem counter_eq3_count (w : Nat) (ps : List Row) : (counter w ps).eq3.count = w := rfl

theorem counter_eq2_bit (w : Nat) (ps : List Row) (x : Nat) :
    (counter w ps).eq2.bit x = (decide (x < w) && planeCount ps x == 2) := by simp [counter]

theorem counter_eq3_bit (w : Nat) (ps : List Row) (x : Nat) :
    (counter w ps).eq3.bit x = (decide (x < w) && planeCount ps x == 3) := by simp [counter]

@[simp] theorem detector_count (c : Row) (m : Masks) : (detector c m).count = c.count := rfl

/-- The detector at one position (R263). -/
theorem detector_bit (c : Row) (m : Masks) (h2 : m.eq2.count = c.count) (h3 : m.eq3.count = c.count) (x : Nat)
    (hx : x < c.count) :
    (detector c m).bit x = ((!c.bit x && m.eq3.bit x) || (c.bit x && (m.eq2.bit x || m.eq3.bit x))) := by
  rw [detector, Row.or_bit (c.not.and m.eq3) _ x hx, Row.and_bit, Row.and_bit, Row.not_bit,
    Row.or_bit_of_count m.eq2 m.eq3 (h3.trans h2.symm)]
  simp [hx]

@[simp] theorem nextRow_count (nbh : Neighborhood) (g : List Row) (w h y : Nat) :
    (nextRow nbh g w h y).count = (gridRow g w y).count := rfl

end Sys2Proof.Machine
end

