-- ==== Sys2Proof/Laws/State.lean ====
section
/-!
SUPPORT. What every named update of the state does to every field, each true by unfolding; with them no proof unfolds a
record update.
-/

namespace Sys2Proof.Machine

variable (s : State)

/-! ### setMem -/

@[simp] theorem State.setMem_params (m : Memory) : (s.setMem m).params = s.params := rfl
@[simp] theorem State.setMem_created (m : Memory) : (s.setMem m).created = s.created := rfl
@[simp] theorem State.setMem_width (m : Memory) : (s.setMem m).width = s.width := rfl
@[simp] theorem State.setMem_height (m : Memory) : (s.setMem m).height = s.height := rfl
@[simp] theorem State.setMem_nbh (m : Memory) : (s.setMem m).nbh = s.nbh := rfl
@[simp] theorem State.setMem_time (m : Memory) : (s.setMem m).time = s.time := rfl
@[simp] theorem State.setMem_mem (m : Memory) : (s.setMem m).mem = m := rfl
@[simp] theorem State.setMem_breg (m : Memory) : (s.setMem m).breg = s.breg := rfl
@[simp] theorem State.setMem_faulted (m : Memory) : (s.setMem m).faulted = s.faulted := rfl
@[simp] theorem State.setMem_fcode (m : Memory) : (s.setMem m).fcode = s.fcode := rfl
@[simp] theorem State.setMem_fcmd (m : Memory) : (s.setMem m).fcmd = s.fcmd := rfl
@[simp] theorem State.setMem_hostWord (m : Memory) : (s.setMem m).hostWord = s.hostWord := rfl
@[simp] theorem State.setMem_inbox (m : Memory) : (s.setMem m).inbox = s.inbox := rfl
@[simp] theorem State.setMem_response (m : Memory) : (s.setMem m).response = s.response := rfl
@[simp] theorem State.setMem_draws (m : Memory) : (s.setMem m).draws = s.draws := rfl
@[simp] theorem State.setMem_w (m : Memory) : (s.setMem m).w = s.w := rfl
@[simp] theorem State.setMem_h (m : Memory) : (s.setMem m).h = s.h := rfl

/-! ### setBreg -/

@[simp] theorem State.setBreg_params (b : Bool) : (s.setBreg b).params = s.params := rfl
@[simp] theorem State.setBreg_created (b : Bool) : (s.setBreg b).created = s.created := rfl
@[simp] theorem State.setBreg_width (b : Bool) : (s.setBreg b).width = s.width := rfl
@[simp] theorem State.setBreg_height (b : Bool) : (s.setBreg b).height = s.height := rfl
@[simp] theorem State.setBreg_nbh (b : Bool) : (s.setBreg b).nbh = s.nbh := rfl
@[simp] theorem State.setBreg_time (b : Bool) : (s.setBreg b).time = s.time := rfl
@[simp] theorem State.setBreg_mem (b : Bool) : (s.setBreg b).mem = s.mem := rfl
@[simp] theorem State.setBreg_breg (b : Bool) : (s.setBreg b).breg = b := rfl
@[simp] theorem State.setBreg_faulted (b : Bool) : (s.setBreg b).faulted = s.faulted := rfl
@[simp] theorem State.setBreg_fcode (b : Bool) : (s.setBreg b).fcode = s.fcode := rfl
@[simp] theorem State.setBreg_fcmd (b : Bool) : (s.setBreg b).fcmd = s.fcmd := rfl
@[simp] theorem State.setBreg_hostWord (b : Bool) : (s.setBreg b).hostWord = s.hostWord := rfl
@[simp] theorem State.setBreg_inbox (b : Bool) : (s.setBreg b).inbox = s.inbox := rfl
@[simp] theorem State.setBreg_response (b : Bool) : (s.setBreg b).response = s.response := rfl
@[simp] theorem State.setBreg_draws (b : Bool) : (s.setBreg b).draws = s.draws := rfl
@[simp] theorem State.setBreg_w (b : Bool) : (s.setBreg b).w = s.w := rfl
@[simp] theorem State.setBreg_h (b : Bool) : (s.setBreg b).h = s.h := rfl

/-! ### setTime -/

@[simp] theorem State.setTime_params (v : BitVec 64) : (s.setTime v).params = s.params := rfl
@[simp] theorem State.setTime_created (v : BitVec 64) : (s.setTime v).created = s.created := rfl
@[simp] theorem State.setTime_width (v : BitVec 64) : (s.setTime v).width = s.width := rfl
@[simp] theorem State.setTime_height (v : BitVec 64) : (s.setTime v).height = s.height := rfl
@[simp] theorem State.setTime_nbh (v : BitVec 64) : (s.setTime v).nbh = s.nbh := rfl
@[simp] theorem State.setTime_time (v : BitVec 64) : (s.setTime v).time = v := rfl
@[simp] theorem State.setTime_mem (v : BitVec 64) : (s.setTime v).mem = s.mem := rfl
@[simp] theorem State.setTime_breg (v : BitVec 64) : (s.setTime v).breg = s.breg := rfl
@[simp] theorem State.setTime_faulted (v : BitVec 64) : (s.setTime v).faulted = s.faulted := rfl
@[simp] theorem State.setTime_fcode (v : BitVec 64) : (s.setTime v).fcode = s.fcode := rfl
@[simp] theorem State.setTime_fcmd (v : BitVec 64) : (s.setTime v).fcmd = s.fcmd := rfl
@[simp] theorem State.setTime_hostWord (v : BitVec 64) : (s.setTime v).hostWord = s.hostWord := rfl
@[simp] theorem State.setTime_inbox (v : BitVec 64) : (s.setTime v).inbox = s.inbox := rfl
@[simp] theorem State.setTime_response (v : BitVec 64) : (s.setTime v).response = s.response := rfl
@[simp] theorem State.setTime_draws (v : BitVec 64) : (s.setTime v).draws = s.draws := rfl
@[simp] theorem State.setTime_w (v : BitVec 64) : (s.setTime v).w = s.w := rfl
@[simp] theorem State.setTime_h (v : BitVec 64) : (s.setTime v).h = s.h := rfl

/-! ### setResponse -/

@[simp] theorem State.setResponse_params (r : Response) : (s.setResponse r).params = s.params := rfl
@[simp] theorem State.setResponse_created (r : Response) : (s.setResponse r).created = s.created := rfl
@[simp] theorem State.setResponse_width (r : Response) : (s.setResponse r).width = s.width := rfl
@[simp] theorem State.setResponse_height (r : Response) : (s.setResponse r).height = s.height := rfl
@[simp] theorem State.setResponse_nbh (r : Response) : (s.setResponse r).nbh = s.nbh := rfl
@[simp] theorem State.setResponse_time (r : Response) : (s.setResponse r).time = s.time := rfl
@[simp] theorem State.setResponse_mem (r : Response) : (s.setResponse r).mem = s.mem := rfl
@[simp] theorem State.setResponse_breg (r : Response) : (s.setResponse r).breg = s.breg := rfl
@[simp] theorem State.setResponse_faulted (r : Response) : (s.setResponse r).faulted = s.faulted := rfl
@[simp] theorem State.setResponse_fcode (r : Response) : (s.setResponse r).fcode = s.fcode := rfl
@[simp] theorem State.setResponse_fcmd (r : Response) : (s.setResponse r).fcmd = s.fcmd := rfl
@[simp] theorem State.setResponse_hostWord (r : Response) : (s.setResponse r).hostWord = s.hostWord := rfl
@[simp] theorem State.setResponse_inbox (r : Response) : (s.setResponse r).inbox = s.inbox := rfl
@[simp] theorem State.setResponse_response (r : Response) : (s.setResponse r).response = some r := rfl
@[simp] theorem State.setResponse_draws (r : Response) : (s.setResponse r).draws = s.draws := rfl
@[simp] theorem State.setResponse_w (r : Response) : (s.setResponse r).w = s.w := rfl
@[simp] theorem State.setResponse_h (r : Response) : (s.setResponse r).h = s.h := rfl

/-! ### takeDraws -/

@[simp] theorem State.takeDraws_params (k : Nat) : (s.takeDraws k).params = s.params := rfl
@[simp] theorem State.takeDraws_created (k : Nat) : (s.takeDraws k).created = s.created := rfl
@[simp] theorem State.takeDraws_width (k : Nat) : (s.takeDraws k).width = s.width := rfl
@[simp] theorem State.takeDraws_height (k : Nat) : (s.takeDraws k).height = s.height := rfl
@[simp] theorem State.takeDraws_nbh (k : Nat) : (s.takeDraws k).nbh = s.nbh := rfl
@[simp] theorem State.takeDraws_time (k : Nat) : (s.takeDraws k).time = s.time := rfl
@[simp] theorem State.takeDraws_mem (k : Nat) : (s.takeDraws k).mem = s.mem := rfl
@[simp] theorem State.takeDraws_breg (k : Nat) : (s.takeDraws k).breg = s.breg := rfl
@[simp] theorem State.takeDraws_faulted (k : Nat) : (s.takeDraws k).faulted = s.faulted := rfl
@[simp] theorem State.takeDraws_fcode (k : Nat) : (s.takeDraws k).fcode = s.fcode := rfl
@[simp] theorem State.takeDraws_fcmd (k : Nat) : (s.takeDraws k).fcmd = s.fcmd := rfl
@[simp] theorem State.takeDraws_hostWord (k : Nat) : (s.takeDraws k).hostWord = s.hostWord := rfl
@[simp] theorem State.takeDraws_inbox (k : Nat) : (s.takeDraws k).inbox = s.inbox := rfl
@[simp] theorem State.takeDraws_response (k : Nat) : (s.takeDraws k).response = s.response := rfl
@[simp] theorem State.takeDraws_draws (k : Nat) : (s.takeDraws k).draws = s.draws + k := rfl
@[simp] theorem State.takeDraws_w (k : Nat) : (s.takeDraws k).w = s.w := rfl
@[simp] theorem State.takeDraws_h (k : Nat) : (s.takeDraws k).h = s.h := rfl

/-! ### setFault -/

@[simp] theorem State.setFault_params (code : BitVec 8) (cmd : Word) : (s.setFault code cmd).params = s.params := rfl
@[simp] theorem State.setFault_created (code : BitVec 8) (cmd : Word) : (s.setFault code cmd).created = s.created := rfl
@[simp] theorem State.setFault_width (code : BitVec 8) (cmd : Word) : (s.setFault code cmd).width = s.width := rfl
@[simp] theorem State.setFault_height (code : BitVec 8) (cmd : Word) : (s.setFault code cmd).height = s.height := rfl
@[simp] theorem State.setFault_nbh (code : BitVec 8) (cmd : Word) : (s.setFault code cmd).nbh = s.nbh := rfl
@[simp] theorem State.setFault_time (code : BitVec 8) (cmd : Word) : (s.setFault code cmd).time = s.time := rfl
@[simp] theorem State.setFault_mem (code : BitVec 8) (cmd : Word) : (s.setFault code cmd).mem = s.mem := rfl
@[simp] theorem State.setFault_breg (code : BitVec 8) (cmd : Word) : (s.setFault code cmd).breg = s.breg := rfl
@[simp] theorem State.setFault_faulted (code : BitVec 8) (cmd : Word) : (s.setFault code cmd).faulted = true := rfl
@[simp] theorem State.setFault_fcode (code : BitVec 8) (cmd : Word) : (s.setFault code cmd).fcode = code := rfl
@[simp] theorem State.setFault_fcmd (code : BitVec 8) (cmd : Word) : (s.setFault code cmd).fcmd = cmd := rfl
@[simp] theorem State.setFault_hostWord (code : BitVec 8) (cmd : Word) : (s.setFault code cmd).hostWord = s.hostWord := rfl
@[simp] theorem State.setFault_inbox (code : BitVec 8) (cmd : Word) : (s.setFault code cmd).inbox = s.inbox := rfl
@[simp] theorem State.setFault_response (code : BitVec 8) (cmd : Word) : (s.setFault code cmd).response = s.response := rfl
@[simp] theorem State.setFault_draws (code : BitVec 8) (cmd : Word) : (s.setFault code cmd).draws = s.draws := rfl
@[simp] theorem State.setFault_w (code : BitVec 8) (cmd : Word) : (s.setFault code cmd).w = s.w := rfl
@[simp] theorem State.setFault_h (code : BitVec 8) (cmd : Word) : (s.setFault code cmd).h = s.h := rfl

/-! ### enterFault -/

@[simp] theorem State.enterFault_params (f : FaultCode) : (s.enterFault f).params = s.params := rfl
@[simp] theorem State.enterFault_created (f : FaultCode) : (s.enterFault f).created = s.created := rfl
@[simp] theorem State.enterFault_width (f : FaultCode) : (s.enterFault f).width = s.width := rfl
@[simp] theorem State.enterFault_height (f : FaultCode) : (s.enterFault f).height = s.height := rfl
@[simp] theorem State.enterFault_nbh (f : FaultCode) : (s.enterFault f).nbh = s.nbh := rfl
@[simp] theorem State.enterFault_time (f : FaultCode) : (s.enterFault f).time = s.time := rfl
@[simp] theorem State.enterFault_mem (f : FaultCode) : (s.enterFault f).mem = s.mem := rfl
@[simp] theorem State.enterFault_breg (f : FaultCode) : (s.enterFault f).breg = s.breg := rfl
@[simp] theorem State.enterFault_faulted (f : FaultCode) : (s.enterFault f).faulted = true := rfl
@[simp] theorem State.enterFault_fcode (f : FaultCode) : (s.enterFault f).fcode = faultNumber f := rfl
@[simp] theorem State.enterFault_fcmd (f : FaultCode) : (s.enterFault f).fcmd = s.hostWord := rfl
@[simp] theorem State.enterFault_hostWord (f : FaultCode) : (s.enterFault f).hostWord = s.hostWord := rfl
@[simp] theorem State.enterFault_inbox (f : FaultCode) : (s.enterFault f).inbox = s.inbox := rfl
@[simp] theorem State.enterFault_response (f : FaultCode) : (s.enterFault f).response = some ⟨false, (faultNumber f).setWidth 64⟩ := rfl
@[simp] theorem State.enterFault_draws (f : FaultCode) : (s.enterFault f).draws = s.draws := rfl
@[simp] theorem State.enterFault_w (f : FaultCode) : (s.enterFault f).w = s.w := rfl
@[simp] theorem State.enterFault_h (f : FaultCode) : (s.enterFault f).h = s.h := rfl

/-! ### turnedAway -/

@[simp] theorem State.turnedAway_params : s.turnedAway.params = s.params := rfl
@[simp] theorem State.turnedAway_created : s.turnedAway.created = s.created := rfl
@[simp] theorem State.turnedAway_width : s.turnedAway.width = s.width := rfl
@[simp] theorem State.turnedAway_height : s.turnedAway.height = s.height := rfl
@[simp] theorem State.turnedAway_nbh : s.turnedAway.nbh = s.nbh := rfl
@[simp] theorem State.turnedAway_time : s.turnedAway.time = s.time := rfl
@[simp] theorem State.turnedAway_mem : s.turnedAway.mem = s.mem := rfl
@[simp] theorem State.turnedAway_breg : s.turnedAway.breg = s.breg := rfl
@[simp] theorem State.turnedAway_faulted : s.turnedAway.faulted = s.faulted := rfl
@[simp] theorem State.turnedAway_fcode : s.turnedAway.fcode = s.fcode := rfl
@[simp] theorem State.turnedAway_fcmd : s.turnedAway.fcmd = s.fcmd := rfl
@[simp] theorem State.turnedAway_hostWord : s.turnedAway.hostWord = s.hostWord := rfl
@[simp] theorem State.turnedAway_inbox : s.turnedAway.inbox = s.inbox := rfl
@[simp] theorem State.turnedAway_response : s.turnedAway.response = some ⟨false, s.fcode.setWidth 64⟩ := rfl
@[simp] theorem State.turnedAway_draws : s.turnedAway.draws = s.draws := rfl
@[simp] theorem State.turnedAway_w : s.turnedAway.w = s.w := rfl
@[simp] theorem State.turnedAway_h : s.turnedAway.h = s.h := rfl

/-! ### writeSlot -/

@[simp] theorem State.writeSlot_params (d : Slot) (v : Row) : (s.writeSlot d v).params = s.params := rfl
@[simp] theorem State.writeSlot_created (d : Slot) (v : Row) : (s.writeSlot d v).created = s.created := rfl
@[simp] theorem State.writeSlot_width (d : Slot) (v : Row) : (s.writeSlot d v).width = s.width := rfl
@[simp] theorem State.writeSlot_height (d : Slot) (v : Row) : (s.writeSlot d v).height = s.height := rfl
@[simp] theorem State.writeSlot_nbh (d : Slot) (v : Row) : (s.writeSlot d v).nbh = s.nbh := rfl
@[simp] theorem State.writeSlot_time (d : Slot) (v : Row) : (s.writeSlot d v).time = s.time := rfl
@[simp] theorem State.writeSlot_mem (d : Slot) (v : Row) : (s.writeSlot d v).mem = s.mem.write d v := rfl
@[simp] theorem State.writeSlot_breg (d : Slot) (v : Row) : (s.writeSlot d v).breg = s.breg := rfl
@[simp] theorem State.writeSlot_faulted (d : Slot) (v : Row) : (s.writeSlot d v).faulted = s.faulted := rfl
@[simp] theorem State.writeSlot_fcode (d : Slot) (v : Row) : (s.writeSlot d v).fcode = s.fcode := rfl
@[simp] theorem State.writeSlot_fcmd (d : Slot) (v : Row) : (s.writeSlot d v).fcmd = s.fcmd := rfl
@[simp] theorem State.writeSlot_hostWord (d : Slot) (v : Row) : (s.writeSlot d v).hostWord = s.hostWord := rfl
@[simp] theorem State.writeSlot_inbox (d : Slot) (v : Row) : (s.writeSlot d v).inbox = s.inbox := rfl
@[simp] theorem State.writeSlot_response (d : Slot) (v : Row) : (s.writeSlot d v).response = s.response := rfl
@[simp] theorem State.writeSlot_draws (d : Slot) (v : Row) : (s.writeSlot d v).draws = s.draws := rfl
@[simp] theorem State.writeSlot_w (d : Slot) (v : Row) : (s.writeSlot d v).w = s.w := rfl
@[simp] theorem State.writeSlot_h (d : Slot) (v : Row) : (s.writeSlot d v).h = s.h := rfl

/-! ### endRowUse -/

@[simp] theorem State.endRowUse_params : s.endRowUse.params = s.params := rfl
@[simp] theorem State.endRowUse_created : s.endRowUse.created = s.created := rfl
@[simp] theorem State.endRowUse_width : s.endRowUse.width = s.width := rfl
@[simp] theorem State.endRowUse_height : s.endRowUse.height = s.height := rfl
@[simp] theorem State.endRowUse_nbh : s.endRowUse.nbh = s.nbh := rfl
@[simp] theorem State.endRowUse_time : s.endRowUse.time = s.time := rfl
@[simp] theorem State.endRowUse_mem : s.endRowUse.mem = s.mem.dropScratch := rfl
@[simp] theorem State.endRowUse_breg : s.endRowUse.breg = Config.unspecifiedBreg s.draws := rfl
@[simp] theorem State.endRowUse_faulted : s.endRowUse.faulted = s.faulted := rfl
@[simp] theorem State.endRowUse_fcode : s.endRowUse.fcode = s.fcode := rfl
@[simp] theorem State.endRowUse_fcmd : s.endRowUse.fcmd = s.fcmd := rfl
@[simp] theorem State.endRowUse_hostWord : s.endRowUse.hostWord = s.hostWord := rfl
@[simp] theorem State.endRowUse_inbox : s.endRowUse.inbox = s.inbox := rfl
@[simp] theorem State.endRowUse_response : s.endRowUse.response = s.response := rfl
@[simp] theorem State.endRowUse_draws : s.endRowUse.draws = s.draws + 1 := rfl
@[simp] theorem State.endRowUse_w : s.endRowUse.w = s.w := rfl
@[simp] theorem State.endRowUse_h : s.endRowUse.h = s.h := rfl

/-! ### construct -/

@[simp] theorem State.construct_params (width height : Nat) (nbh : Neighborhood) : (s.construct width height nbh).params = s.params := rfl
@[simp] theorem State.construct_created (width height : Nat) (nbh : Neighborhood) : (s.construct width height nbh).created = true := rfl
@[simp] theorem State.construct_width (width height : Nat) (nbh : Neighborhood) : (s.construct width height nbh).width = BitVec.ofNat 20 width := rfl
@[simp] theorem State.construct_height (width height : Nat) (nbh : Neighborhood) : (s.construct width height nbh).height = BitVec.ofNat 20 height := rfl
@[simp] theorem State.construct_nbh (width height : Nat) (nbh : Neighborhood) : (s.construct width height nbh).nbh = nbh := rfl
@[simp] theorem State.construct_time (width height : Nat) (nbh : Neighborhood) : (s.construct width height nbh).time = 0 := rfl
@[simp] theorem State.construct_mem (width height : Nat) (nbh : Neighborhood) : (s.construct width height nbh).mem = ⟨List.replicate height (Row.zeros width), List.replicate height none,
      List.replicate s.params.numScratch none⟩ := rfl
@[simp] theorem State.construct_breg (width height : Nat) (nbh : Neighborhood) : (s.construct width height nbh).breg = s.breg := rfl
@[simp] theorem State.construct_faulted (width height : Nat) (nbh : Neighborhood) : (s.construct width height nbh).faulted = s.faulted := rfl
@[simp] theorem State.construct_fcode (width height : Nat) (nbh : Neighborhood) : (s.construct width height nbh).fcode = s.fcode := rfl
@[simp] theorem State.construct_fcmd (width height : Nat) (nbh : Neighborhood) : (s.construct width height nbh).fcmd = s.fcmd := rfl
@[simp] theorem State.construct_hostWord (width height : Nat) (nbh : Neighborhood) : (s.construct width height nbh).hostWord = s.hostWord := rfl
@[simp] theorem State.construct_inbox (width height : Nat) (nbh : Neighborhood) : (s.construct width height nbh).inbox = s.inbox := rfl
@[simp] theorem State.construct_response (width height : Nat) (nbh : Neighborhood) : (s.construct width height nbh).response = s.response := rfl
@[simp] theorem State.construct_draws (width height : Nat) (nbh : Neighborhood) : (s.construct width height nbh).draws = s.draws := rfl

/-! ### commit -/

@[simp] theorem State.commit_params (g : List Row) : (s.commit g).params = s.params := by simp [State.commit]
@[simp] theorem State.commit_created (g : List Row) : (s.commit g).created = s.created := by simp [State.commit]
@[simp] theorem State.commit_width (g : List Row) : (s.commit g).width = s.width := by simp [State.commit]
@[simp] theorem State.commit_height (g : List Row) : (s.commit g).height = s.height := by simp [State.commit]
@[simp] theorem State.commit_nbh (g : List Row) : (s.commit g).nbh = s.nbh := by simp [State.commit]
@[simp] theorem State.commit_time (g : List Row) : (s.commit g).time = s.time + 1 := by simp [State.commit]
@[simp] theorem State.commit_mem (g : List Row) : (s.commit g).mem = (s.mem.setGrid g).dropScratch := by simp [State.commit]
@[simp] theorem State.commit_breg (g : List Row) : (s.commit g).breg = Config.unspecifiedBreg s.draws := by simp [State.commit]
@[simp] theorem State.commit_faulted (g : List Row) : (s.commit g).faulted = s.faulted := by simp [State.commit]
@[simp] theorem State.commit_fcode (g : List Row) : (s.commit g).fcode = s.fcode := by simp [State.commit]
@[simp] theorem State.commit_fcmd (g : List Row) : (s.commit g).fcmd = s.fcmd := by simp [State.commit]
@[simp] theorem State.commit_hostWord (g : List Row) : (s.commit g).hostWord = s.hostWord := by simp [State.commit]
@[simp] theorem State.commit_inbox (g : List Row) : (s.commit g).inbox = s.inbox := by simp [State.commit]
@[simp] theorem State.commit_response (g : List Row) : (s.commit g).response = s.response := by simp [State.commit]
@[simp] theorem State.commit_draws (g : List Row) : (s.commit g).draws = s.draws + 1 := by simp [State.commit]
@[simp] theorem State.commit_w (g : List Row) : (s.commit g).w = s.w := by simp [State.commit]
@[simp] theorem State.commit_h (g : List Row) : (s.commit g).h = s.h := by simp [State.commit]

/-! ### applyReset -/

@[simp] theorem State.applyReset_params : s.applyReset.params = s.params := rfl
@[simp] theorem State.applyReset_created : s.applyReset.created = false := rfl
@[simp] theorem State.applyReset_width : s.applyReset.width = 0 := rfl
@[simp] theorem State.applyReset_height : s.applyReset.height = 0 := rfl
@[simp] theorem State.applyReset_nbh : s.applyReset.nbh = .vonNeumann := rfl
@[simp] theorem State.applyReset_time : s.applyReset.time = 0 := rfl
@[simp] theorem State.applyReset_mem : s.applyReset.mem = ⟨[], [], List.replicate s.params.numScratch none⟩ := rfl
@[simp] theorem State.applyReset_breg : s.applyReset.breg = false := rfl
@[simp] theorem State.applyReset_faulted : s.applyReset.faulted = false := rfl
@[simp] theorem State.applyReset_fcode : s.applyReset.fcode = 0 := rfl
@[simp] theorem State.applyReset_fcmd : s.applyReset.fcmd = 0 := rfl
@[simp] theorem State.applyReset_hostWord : s.applyReset.hostWord = 0 := rfl
@[simp] theorem State.applyReset_inbox : s.applyReset.inbox = s.inbox := rfl
@[simp] theorem State.applyReset_response : s.applyReset.response = none := rfl
@[simp] theorem State.applyReset_draws : s.applyReset.draws = s.draws := rfl

/-! ### The parts of the row storage -/

@[simp] theorem Memory.setGrid_g (m : Memory) (g : List Row) : (m.setGrid g).g = g := rfl
@[simp] theorem Memory.setGrid_n (m : Memory) (g : List Row) : (m.setGrid g).n = m.n := rfl
@[simp] theorem Memory.setGrid_t (m : Memory) (g : List Row) : (m.setGrid g).t = m.t := rfl
@[simp] theorem Memory.dropScratch_g (m : Memory) : m.dropScratch.g = m.g := rfl
@[simp] theorem Memory.dropScratch_n (m : Memory) : m.dropScratch.n = invalidated m.n := rfl
@[simp] theorem Memory.dropScratch_t (m : Memory) : m.dropScratch.t = invalidated m.t := rfl

end Sys2Proof.Machine
end

