-- ==== Sys2Proof/Laws/Memory.lean ====
section
/-!
SUPPORT. The row storage: a read after a write, slots that do not alias (20_memory R65), and that every memory operation
keeps the canonical form `Memory.wf` (R36 to R38).
-/

namespace Sys2Proof.Machine

/-- The slot has an entry in the storage's lists. -/
def Memory.has (m : Memory) (d : Slot) : Bool :=
  match d.space with
  | .g => decide (d.index < m.g.length)
  | .n => decide (d.index < m.n.length)
  | .t => decide (d.index < m.t.length)

/-! ### Reading after writing -/

/-- A slot that reads as a row has an entry. -/
theorem Memory.has_of_read (m : Memory) (d : Slot) (r : Row) (h : m.read d = some r) : m.has d = true := by
  obtain ⟨sp, i⟩ := d
  cases sp <;> simp only [Memory.read, Memory.has, decide_eq_true_eq] at h ⊢ <;> by_contra hi <;>
    simp [List.getElem?_eq_none (Nat.le_of_not_lt hi)] at h

/-- A slot reads as the row written to it (R19). -/
theorem Memory.read_write_same (m : Memory) (d : Slot) (v : Row) (h : m.has d = true) :
    (m.write d v).read d = some v := by
  obtain ⟨sp, i⟩ := d
  cases sp <;> simp only [Memory.has, decide_eq_true_eq] at h <;> simp [Memory.read, Memory.write, h]

/-- A write changes no other slot (R65). -/
theorem Memory.read_write_other (m : Memory) (d e : Slot) (v : Row) (h : e ≠ d) :
    (m.write d v).read e = m.read e := by
  obtain ⟨sp, i⟩ := d
  obtain ⟨sp', j⟩ := e
  cases sp <;> cases sp' <;> simp only [Memory.read, Memory.write]
  all_goals
    have hij : i ≠ j := fun hij => h (by rw [hij])
    simp [List.getElem?_set_ne hij]

/-- A write changes no other space (R65). -/
theorem Memory.write_g_of_space (m : Memory) (d : Slot) (v : Row) (h : d.space ≠ .g) : (m.write d v).g = m.g := by
  obtain ⟨sp, i⟩ := d
  cases sp <;> simp_all [Memory.write]

@[simp] theorem invalidated_length (l : List (Option Row)) : (invalidated l).length = l.length := by
  simp [invalidated]

@[simp] theorem invalidated_getElem? (l : List (Option Row)) (i : Nat) : (invalidated l)[i]?.join = none := by
  simp only [invalidated, List.getElem?_map]
  cases l[i]? <;> rfl

/-- Invalid slots stay as they are. -/
@[simp] theorem invalidated_invalidated (l : List (Option Row)) : invalidated (invalidated l) = invalidated l := by
  simp [invalidated]

/-- After `dropScratch` every N and every T slot is invalid and every G slot reads as before (R37, R38, R355). -/
theorem Memory.dropScratch_read (m : Memory) (e : Slot) :
    m.dropScratch.read e = if e.space = .g then m.read e else none := by
  obtain ⟨sp, i⟩ := e
  cases sp <;> simp [Memory.read]

/-- After the grid is replaced a G slot reads its new row and every other slot reads as before. -/
theorem Memory.setGrid_read (m : Memory) (g : List Row) (e : Slot) :
    (m.setGrid g).read e = if e.space = .g then g[e.index]? else m.read e := by
  obtain ⟨sp, i⟩ := e
  cases sp <;> simp [Memory.read]

/-- A G slot that exists reads as its grid row. -/
theorem Memory.read_g (m : Memory) (w y : Nat) (h : y < m.g.length) : m.read ⟨.g, y⟩ = some (gridRow m.g w y) := by
  simp [Memory.read, gridRow, h]

/-! ### The canonical form -/

/-- What the canonical form says (R36 to R38). -/
theorem Memory.wf_iff (m : Memory) (w h nt maxW : Nat) :
    m.wf w h nt maxW = true ↔
      m.g.length = h ∧ (∀ r ∈ m.g, r.count = w) ∧
      m.n.length = h ∧ (∀ r, some r ∈ m.n → r.count = w) ∧
      m.t.length = nt ∧ (∀ r, some r ∈ m.t → 1 ≤ r.count ∧ r.count ≤ maxW) := by
  simp only [Memory.wf, Bool.and_eq_true, decide_eq_true_eq, List.all_eq_true, beq_iff_eq, and_assoc]
  have hn : ∀ (l : List (Option Row)) (p : Row → Bool),
      (∀ x ∈ l, x.all p = true) ↔ (∀ r, some r ∈ l → p r = true) := fun l p =>
    ⟨fun H r hr => by simpa using H _ hr, fun H x hx => by cases x with | none => rfl | some r => exact H r hx⟩
  simp only [hn, Bool.and_eq_true, decide_eq_true_eq, beq_iff_eq]

/-- Every row of a grid in canonical form has count WIDTH. -/
theorem gridRow_count (g : List Row) (w y : Nat) (hg : ∀ r ∈ g, r.count = w) : (gridRow g w y).count = w := by
  unfold gridRow
  cases h : g[y]? with
  | none => rfl
  | some r => exact hg r (List.mem_of_getElem? h)

/-- A row read from a slot of the canonical form has a count that fits it. -/
theorem Memory.wf_read (m : Memory) (w h nt maxW : Nat) (hm : m.wf w h nt maxW = true) (d : Slot) (r : Row)
    (hr : m.read d = some r) :
    (d.space = .t → 1 ≤ r.count ∧ r.count ≤ maxW) ∧ (d.space ≠ .t → r.count = w) := by
  obtain ⟨-, hg, -, hn, -, ht⟩ := (Memory.wf_iff ..).1 hm
  obtain ⟨sp, i⟩ := d
  cases sp <;> simp only [Memory.read] at hr
  · exact ⟨nofun, fun _ => hg r (List.mem_of_getElem? hr)⟩
  · exact ⟨nofun, fun _ => hn r (List.mem_of_getElem? (Option.join_eq_some_iff.1 hr))⟩
  · exact ⟨fun _ => ht r (List.mem_of_getElem? (Option.join_eq_some_iff.1 hr)), fun h => absurd rfl h⟩

/-- A write of a row whose count fits the slot keeps the canonical form (R131). -/
theorem Memory.write_wf (m : Memory) (w h nt maxW : Nat) (hm : m.wf w h nt maxW = true) (d : Slot) (v : Row)
    (ht : d.space = .t → 1 ≤ v.count ∧ v.count ≤ maxW) (hgn : d.space ≠ .t → v.count = w) :
    (m.write d v).wf w h nt maxW = true := by
  rw [Memory.wf_iff] at hm ⊢
  obtain ⟨h1, h2, h3, h4, h5, h6⟩ := hm
  obtain ⟨sp, i⟩ := d
  cases sp
  · refine ⟨by simpa [Memory.write] using h1, fun r hr => ?_, h3, h4, h5, h6⟩
    rcases List.mem_or_eq_of_mem_set hr with hr | rfl
    · exact h2 r hr
    · exact hgn nofun
  · refine ⟨h1, h2, by simpa [Memory.write] using h3, fun r hr => ?_, h5, h6⟩
    rcases List.mem_or_eq_of_mem_set hr with hr | hr
    · exact h4 r hr
    · cases hr; exact hgn nofun
  · refine ⟨h1, h2, h3, h4, by simpa [Memory.write] using h5, fun r hr => ?_⟩
    rcases List.mem_or_eq_of_mem_set hr with hr | hr
    · exact h6 r hr
    · cases hr; exact ht rfl

theorem not_some_mem_invalidated (l : List (Option Row)) (r : Row) : some r ∉ invalidated l := by
  simp [invalidated]

/-- Invalidating N and T keeps the canonical form. -/
theorem Memory.dropScratch_wf (m : Memory) (w h nt maxW : Nat) (hm : m.wf w h nt maxW = true) :
    m.dropScratch.wf w h nt maxW = true := by
  rw [Memory.wf_iff] at hm ⊢
  obtain ⟨h1, h2, h3, -, h5, -⟩ := hm
  exact ⟨h1, h2, by simpa using h3, fun r hr => absurd hr (not_some_mem_invalidated _ r), by simpa using h5,
    fun r hr => absurd hr (not_some_mem_invalidated _ r)⟩

/-- Replacing the grid by `h` rows of count `w` keeps the canonical form. -/
theorem Memory.setGrid_wf (m : Memory) (w h nt maxW : Nat) (hm : m.wf w h nt maxW = true) (g : List Row)
    (hl : g.length = h) (hg : ∀ r ∈ g, r.count = w) : (m.setGrid g).wf w h nt maxW = true := by
  rw [Memory.wf_iff] at hm ⊢
  obtain ⟨-, -, h3, h4, h5, h6⟩ := hm
  exact ⟨hl, hg, h3, h4, h5, h6⟩

/-- The storage of a fresh grid has the canonical form (R50), and with `h = 0` that of reset (R49). -/
theorem Memory.fresh_wf (w h nt maxW : Nat) :
    Memory.wf ⟨List.replicate h (Row.zeros w), List.replicate h none, List.replicate nt none⟩ w h nt maxW = true := by
  rw [Memory.wf_iff]
  simp +contextual [List.mem_replicate]

/-- The row storage of the state after reset has the canonical form (R49). -/
theorem reset_wf (p : Params) : Memory.wf ⟨[], [], List.replicate p.numScratch none⟩ 0 0 p.numScratch p.maxWidth = true :=
  Memory.fresh_wf 0 0 p.numScratch p.maxWidth

/-! ### Cells -/

@[simp] theorem setGridCell_length (g : List Row) (w x y : Nat) (v : Bool) : (setGridCell g w x y v).length = g.length := by
  simp [setGridCell]

theorem setGridCell_count (g : List Row) (w x y : Nat) (v : Bool) (hg : ∀ r ∈ g, r.count = w) :
    ∀ r ∈ setGridCell g w x y v, r.count = w := by
  intro r hr
  rcases List.mem_or_eq_of_mem_set hr with hr | rfl
  · exact hg r hr
  · simpa using gridRow_count g w y hg

/-- The rows of a grid after a cell is written. -/
theorem setGridCell_gridRow (g : List Row) (w x y : Nat) (v : Bool) (y' : Nat) (hy : y < g.length) :
    gridRow (setGridCell g w x y v) w y' = if y' = y then (gridRow g w y).setBit x v else gridRow g w y' := by
  by_cases h : y' = y
  · subst h
    simp [gridRow, setGridCell, hy]
  · simp [gridRow, setGridCell, h, List.getElem?_set_ne (Ne.symm h)]

/-- The cells of a grid after a cell is written (R192): the written one has the new value, every other one its old. -/
theorem setGridCell_cell (g : List Row) (w x y : Nat) (v : Bool) (hg : ∀ r ∈ g, r.count = w) (hy : y < g.length)
    (x' y' : Nat) (hx' : x' < w) :
    gridCell (setGridCell g w x y v) w x' y' = if x' = x ∧ y' = y then v else gridCell g w x' y' := by
  unfold gridCell
  rw [setGridCell_gridRow g w x y v y' hy]
  by_cases h : y' = y
  · subst h
    simp [gridRow_count g w y' hg, hx']
  · simp [h]

end Sys2Proof.Machine
end

