-- ==== Sys2Proof/Laws/Ops.lean ====
section
/-!
SUPPORT. What the shared operations can do, once each: the checks of 60_exceptions R310 and the shapes of the row commands. An
inversion lemma says everything an operation can answer; a completion lemma says when it runs.
-/

namespace Sys2Proof.Machine

variable {s t : State}

/-- A command that does not have its own effect: it is turned away in the fault state (R305), or it enters the fault state
(R304). -/
inductive Stopped (s t : State) : Prop where
  | turnedAway (hf : s.faulted = true) (ht : t = s.turnedAway)
  | fault (hf : s.faulted = false) (f : FaultCode) (ht : t = s.enterFault f)

/-! ### The checks -/

@[simp] theorem respond_next (v : Word) : respond v s = .next t ↔ s.setResponse ⟨true, v⟩ = t := by
  simp [respond]

@[simp] theorem raiseFault_next (f : FaultCode) : raiseFault f s = .next t ↔ s.enterFault f = t := by
  simp [raiseFault]

@[simp] theorem refuse_next : refuse s = .next t ↔ s.turnedAway = t := by simp [refuse]

/-- `require` runs on or enters the fault state (R20). -/
theorem require_next (c : Prop) [Decidable c] (f : FaultCode) (k : Result) :
    require c f s k = .next t ↔ (c ∧ k = .next t) ∨ (¬c ∧ s.enterFault f = t) := by
  unfold require
  by_cases h : c <;> simp [h]

theorem require_pos (c : Prop) [Decidable c] (f : FaultCode) (k : Result) (h : c) : require c f s k = k := if_pos h

theorem require_neg (c : Prop) [Decidable c] (f : FaultCode) (k : Result) (h : ¬c) :
    require c f s k = .next (s.enterFault f) := if_neg h

theorem whenRunning_pos (k : Result) (h : s.faulted = false) : whenRunning s k = k := by simp [whenRunning, h]

theorem whenRunning_neg (k : Result) (h : s.faulted = true) : whenRunning s k = .next s.turnedAway := by
  simp [whenRunning, h, refuse]

theorem whenCreated_pos (k : Result) (hf : s.faulted = false) (hc : s.created = true) : whenCreated s k = k := by
  simp [whenCreated, whenRunning_pos _ hf, require_pos _ _ _ hc]

/-- Steps 3 and 4 of R310: the command goes on, or it stops. -/
theorem whenCreated_next (k : Result) (h : whenCreated s k = .next t) :
    Stopped s t ∨ (s.faulted = false ∧ s.created = true ∧ k = .next t) := by
  unfold whenCreated whenRunning at h
  by_cases hf : s.faulted = true
  · simp only [hf, if_true, refuse_next] at h
    exact .inl (.turnedAway hf h.symm)
  · have hf' : s.faulted = false := by simpa using hf
    simp only [hf', Bool.false_eq_true, if_false, require_next] at h
    rcases h with ⟨hc, hk⟩ | ⟨-, ht⟩
    · exact .inr ⟨hf', hc, hk⟩
    · exact .inl (.fault hf' _ ht.symm)

/-- A check passed or the command stopped. -/
theorem require_cases (c : Prop) [Decidable c] (f : FaultCode) (k : Result) (hf : s.faulted = false)
    (h : require c f s k = .next t) : Stopped s t ∨ (c ∧ k = .next t) := by
  rcases (require_next c f k).1 h with hk | ⟨-, ht⟩
  · exact .inr hk
  · exact .inl (.fault hf f ht.symm)

/-- A slot was read or the command stopped (R132). -/
theorem withRow_cases (d : Slot) (k : Row → Result) (hf : s.faulted = false) (h : withRow s d k = .next t) :
    Stopped s t ∨ ∃ r, s.mem.read d = some r ∧ k r = .next t := by
  unfold withRow at h
  split at h
  · rename_i r hr
    exact .inr ⟨r, hr, h⟩
  · exact .inl (.fault hf _ ((raiseFault_next _).1 h).symm)

theorem withRow_pos (d : Slot) (k : Row → Result) (r : Row) (hr : s.mem.read d = some r) : withRow s d k = k r := by
  simp [withRow, hr]

/-! ### The shapes of the row commands -/

/-- What ROW_CREATE and ROW_RANDOM can do (R134, R136). -/
theorem createRow_cases (d : Slot) (n : Nat) (v : Row) (s' : State) (h : createRow d n v s s' = .next t) :
    Stopped s t ∨
      (s.faulted = false ∧ s.created = true ∧ slotExists s d = true ∧ legalCount s n = true ∧ countFits s d n = true ∧
        t = (s'.writeSlot d v).setResponse ⟨true, 0⟩) := by
  rcases whenCreated_next _ h with h | ⟨hf, hc, h⟩
  · exact .inl h
  rcases require_cases _ _ _ hf h with h | ⟨hd, h⟩
  · exact .inl h
  rcases require_cases _ _ _ hf h with h | ⟨hl, h⟩
  · exact .inl h
  rcases require_cases _ _ _ hf h with h | ⟨hw, h⟩
  · exact .inl h
  exact .inr ⟨hf, hc, hd, hl, hw, ((respond_next _).1 h).symm⟩

/-- When ROW_CREATE and ROW_RANDOM run. -/
theorem createRow_done (d : Slot) (n : Nat) (v : Row) (s' : State) (hf : s.faulted = false) (hc : s.created = true)
    (hd : slotExists s d = true) (hl : legalCount s n = true) (hw : countFits s d n = true) :
    createRow d n v s s' = .next ((s'.writeSlot d v).setResponse ⟨true, 0⟩) := by
  simp only [createRow, withSlot, whenCreated_pos _ hf hc, require_pos _ _ _ hd, require_pos _ _ _ hl,
    require_pos _ _ _ hw, respond]

/-- What ROW_AND, ROW_OR and ROW_XOR can do (R144 to R147). -/
theorem combineRows_cases (op : Row → Row → Row) (d src : Slot) (h : combineRows op d src s = .next t) :
    Stopped s t ∨
      (s.faulted = false ∧ s.created = true ∧ slotExists s d = true ∧ slotExists s src = true ∧
        ∃ a b, s.mem.read d = some a ∧ s.mem.read src = some b ∧ a.count = b.count ∧
          t = (s.writeSlot d (op a b)).setResponse ⟨true, 0⟩) := by
  rcases whenCreated_next _ h with h | ⟨hf, hc, h⟩
  · exact .inl h
  rcases require_cases _ _ _ hf h with h | ⟨hd, h⟩
  · exact .inl h
  rcases require_cases _ _ _ hf h with h | ⟨hs, h⟩
  · exact .inl h
  rcases withRow_cases _ _ hf h with h | ⟨a, ha, h⟩
  · exact .inl h
  rcases withRow_cases _ _ hf h with h | ⟨b, hb, h⟩
  · exact .inl h
  rcases require_cases _ _ _ hf h with h | ⟨hn, h⟩
  · exact .inl h
  exact .inr ⟨hf, hc, hd, hs, a, b, ha, hb, hn, ((respond_next _).1 h).symm⟩

/-- When ROW_AND, ROW_OR and ROW_XOR run. -/
theorem combineRows_done (op : Row → Row → Row) (d src : Slot) (a b : Row) (hf : s.faulted = false)
    (hc : s.created = true) (hd : slotExists s d = true) (hs : slotExists s src = true) (ha : s.mem.read d = some a)
    (hb : s.mem.read src = some b) (hn : a.count = b.count) :
    combineRows op d src s = .next ((s.writeSlot d (op a b)).setResponse ⟨true, 0⟩) := by
  simp only [combineRows, withSlot, whenCreated_pos _ hf hc, require_pos _ _ _ hd, require_pos _ _ _ hs,
    withRow_pos _ _ _ ha, withRow_pos _ _ _ hb, require_pos _ _ _ hn, respond]

/-- What ROW_NOT and ROW_COPY can do (R148 to R150). -/
theorem replaceRow_cases (op : Row → Row) (d src : Slot) (h : replaceRow op d src s = .next t) :
    Stopped s t ∨
      (s.faulted = false ∧ s.created = true ∧ slotExists s d = true ∧ slotExists s src = true ∧
        ∃ b, s.mem.read src = some b ∧ countFits s d b.count = true ∧
          t = (s.writeSlot d (op b)).setResponse ⟨true, 0⟩) := by
  rcases whenCreated_next _ h with h | ⟨hf, hc, h⟩
  · exact .inl h
  rcases require_cases _ _ _ hf h with h | ⟨hd, h⟩
  · exact .inl h
  rcases require_cases _ _ _ hf h with h | ⟨hs, h⟩
  · exact .inl h
  rcases withRow_cases _ _ hf h with h | ⟨b, hb, h⟩
  · exact .inl h
  rcases require_cases _ _ _ hf h with h | ⟨hw, h⟩
  · exact .inl h
  exact .inr ⟨hf, hc, hd, hs, b, hb, hw, ((respond_next _).1 h).symm⟩

/-- When ROW_NOT and ROW_COPY run. -/
theorem replaceRow_done (op : Row → Row) (d src : Slot) (b : Row) (hf : s.faulted = false) (hc : s.created = true)
    (hd : slotExists s d = true) (hs : slotExists s src = true) (hb : s.mem.read src = some b)
    (hw : countFits s d b.count = true) :
    replaceRow op d src s = .next ((s.writeSlot d (op b)).setResponse ⟨true, 0⟩) := by
  simp only [replaceRow, withSlot, whenCreated_pos _ hf hc, require_pos _ _ _ hd, require_pos _ _ _ hs,
    withRow_pos _ _ _ hb, require_pos _ _ _ hw, respond]

/-- What ROW_SHL and ROW_SHR can do (R152 to R154). -/
theorem shiftRow_cases (op : Row → Nat → Row) (d : Slot) (k : Nat) (h : shiftRow op d k s = .next t) :
    Stopped s t ∨
      (s.faulted = false ∧ s.created = true ∧ slotExists s d = true ∧
        ∃ r, s.mem.read d = some r ∧ legalShift s k = true ∧
          t = (s.writeSlot d (op r k)).setResponse ⟨true, 0⟩) := by
  rcases whenCreated_next _ h with h | ⟨hf, hc, h⟩
  · exact .inl h
  rcases require_cases _ _ _ hf h with h | ⟨hd, h⟩
  · exact .inl h
  rcases withRow_cases _ _ hf h with h | ⟨r, hr, h⟩
  · exact .inl h
  rcases require_cases _ _ _ hf h with h | ⟨hk, h⟩
  · exact .inl h
  exact .inr ⟨hf, hc, hd, r, hr, hk, ((respond_next _).1 h).symm⟩

/-- When ROW_SHL and ROW_SHR run. -/
theorem shiftRow_done (op : Row → Nat → Row) (d : Slot) (k : Nat) (r : Row) (hf : s.faulted = false)
    (hc : s.created = true) (hd : slotExists s d = true) (hr : s.mem.read d = some r) (hk : legalShift s k = true) :
    shiftRow op d k s = .next ((s.writeSlot d (op r k)).setResponse ⟨true, 0⟩) := by
  simp only [shiftRow, withSlot, whenCreated_pos _ hf hc, require_pos _ _ _ hd, withRow_pos _ _ _ hr,
    require_pos _ _ _ hk, respond]

/-! ### The other row commands -/

/-- What ROW_GET can do (R140). -/
theorem execRowGet_cases (d : Slot) (i : Nat) (h : execRowGet d i s = .next t) :
    Stopped s t ∨
      (s.faulted = false ∧ s.created = true ∧ slotExists s d = true ∧
        ∃ r, s.mem.read d = some r ∧ i < r.count ∧
          t = (s.setBreg (r.bit i)).setResponse ⟨true, valueOfBit (r.bit i)⟩) := by
  rcases whenCreated_next _ h with h | ⟨hf, hc, h⟩
  · exact .inl h
  rcases require_cases _ _ _ hf h with h | ⟨hd, h⟩
  · exact .inl h
  rcases withRow_cases _ _ hf h with h | ⟨r, hr, h⟩
  · exact .inl h
  rcases require_cases _ _ _ hf h with h | ⟨hk, h⟩
  · exact .inl h
  exact .inr ⟨hf, hc, hd, r, hr, hk, ((respond_next _).1 h).symm⟩

/-- When ROW_GET runs. -/
theorem execRowGet_done (d : Slot) (i : Nat) (r : Row) (hf : s.faulted = false) (hc : s.created = true)
    (hd : slotExists s d = true) (hr : s.mem.read d = some r) (hi : i < r.count) :
    execRowGet d i s = .next ((s.setBreg (r.bit i)).setResponse ⟨true, valueOfBit (r.bit i)⟩) := by
  simp only [execRowGet, withSlot, whenCreated_pos _ hf hc, require_pos _ _ _ hd, withRow_pos _ _ _ hr,
    require_pos _ _ _ hi, respond]

/-- What ROW_SET can do (R141). -/
theorem execRowSet_cases (d : Slot) (i : Nat) (v : BitSource) (h : execRowSet d i v s = .next t) :
    Stopped s t ∨
      (s.faulted = false ∧ s.created = true ∧ slotExists s d = true ∧
        ∃ r, s.mem.read d = some r ∧ i < r.count ∧
          t = (s.writeSlot d (r.setBit i (bitValue s v))).setResponse ⟨true, 0⟩) := by
  rcases whenCreated_next _ h with h | ⟨hf, hc, h⟩
  · exact .inl h
  rcases require_cases _ _ _ hf h with h | ⟨hd, h⟩
  · exact .inl h
  rcases withRow_cases _ _ hf h with h | ⟨r, hr, h⟩
  · exact .inl h
  rcases require_cases _ _ _ hf h with h | ⟨hk, h⟩
  · exact .inl h
  exact .inr ⟨hf, hc, hd, r, hr, hk, ((respond_next _).1 h).symm⟩

/-- When ROW_SET runs. -/
theorem execRowSet_done (d : Slot) (i : Nat) (v : BitSource) (r : Row) (hf : s.faulted = false) (hc : s.created = true)
    (hd : slotExists s d = true) (hr : s.mem.read d = some r) (hi : i < r.count) :
    execRowSet d i v s = .next ((s.writeSlot d (r.setBit i (bitValue s v))).setResponse ⟨true, 0⟩) := by
  simp only [execRowSet, withSlot, whenCreated_pos _ hf hc, require_pos _ _ _ hd, withRow_pos _ _ _ hr,
    require_pos _ _ _ hi, respond]

/-- What ROW_CLEAR can do (R143). -/
theorem execRowClear_cases (d : Slot) (h : execRowClear d s = .next t) :
    Stopped s t ∨
      (s.faulted = false ∧ s.created = true ∧ slotExists s d = true ∧
        ∃ r, s.mem.read d = some r ∧ t = (s.writeSlot d (Row.zeros r.count)).setResponse ⟨true, 0⟩) := by
  rcases whenCreated_next _ h with h | ⟨hf, hc, h⟩
  · exact .inl h
  rcases require_cases _ _ _ hf h with h | ⟨hd, h⟩
  · exact .inl h
  rcases withRow_cases _ _ hf h with h | ⟨r, hr, h⟩
  · exact .inl h
  exact .inr ⟨hf, hc, hd, r, hr, ((respond_next _).1 h).symm⟩

/-- When ROW_CLEAR runs. -/
theorem execRowClear_done (d : Slot) (r : Row) (hf : s.faulted = false) (hc : s.created = true)
    (hd : slotExists s d = true) (hr : s.mem.read d = some r) :
    execRowClear d s = .next ((s.writeSlot d (Row.zeros r.count)).setResponse ⟨true, 0⟩) := by
  simp only [execRowClear, withSlot, whenCreated_pos _ hf hc, require_pos _ _ _ hd, withRow_pos _ _ _ hr, respond]

/-! ### The host commands -/

/-- What CREATE can do (R180). -/
theorem execCreate_cases (w h : Nat) (nbh : Neighborhood) (hx : execCreate w h nbh s = .next t) :
    Stopped s t ∨
      (s.faulted = false ∧ s.created = false ∧ (1 ≤ w ∧ w ≤ s.params.maxWidth) ∧ (1 ≤ h ∧ h ≤ s.params.maxHeight) ∧
        t = (s.construct w h nbh).setResponse ⟨true, 0⟩) := by
  by_cases hf : s.faulted = true
  · rw [execCreate, whenRunning_neg _ hf] at hx
    exact .inl (.turnedAway hf (by simpa using hx.symm))
  have hf : s.faulted = false := by simpa using hf
  rw [execCreate, whenRunning_pos _ hf] at hx
  rcases require_cases _ _ _ hf hx with hx | ⟨hc, hx⟩
  · exact .inl hx
  rcases require_cases _ _ _ hf hx with hx | ⟨hw, hx⟩
  · exact .inl hx
  rcases require_cases _ _ _ hf hx with hx | ⟨hh, hx⟩
  · exact .inl hx
  exact .inr ⟨hf, hc, hw, hh, ((respond_next _).1 hx).symm⟩

/-- What CLEAR can do (R184). -/
theorem execClear_cases (h : execClear s = .next t) :
    Stopped s t ∨
      (s.faulted = false ∧ s.created = true ∧
        t = (((s.setTime 0).setMem (s.mem.setGrid (List.replicate s.h (Row.zeros s.w)))).endRowUse).setResponse
          ⟨true, 0⟩) := by
  rcases whenCreated_next _ h with h | ⟨hf, hc, h⟩
  · exact .inl h
  exact .inr ⟨hf, hc, ((respond_next _).1 h).symm⟩

/-- What PUT_RANDOM can do (R186). -/
theorem execPutRandom_cases (h : execPutRandom s = .next t) :
    Stopped s t ∨
      (s.faulted = false ∧ s.created = true ∧
        t = (((s.setMem (s.mem.setGrid s.drawGrid)).takeDraws s.h).endRowUse).setResponse ⟨true, 0⟩) := by
  rcases whenCreated_next _ h with h | ⟨hf, hc, h⟩
  · exact .inl h
  exact .inr ⟨hf, hc, ((respond_next _).1 h).symm⟩

/-- What PUT_FIXED_SEED can do (R188). -/
theorem execPutFixedSeed_cases (h : execPutFixedSeed s = .next t) :
    Stopped s t ∨
      (s.faulted = false ∧ s.created = true ∧ (3 ≤ s.w ∧ 3 ≤ s.h) ∧
        t = ((s.setMem (s.mem.setGrid (seedGrid s.mem.g s.w))).endRowUse).setResponse ⟨true, 0⟩) := by
  rcases whenCreated_next _ h with h | ⟨hf, hc, h⟩
  · exact .inl h
  rcases require_cases _ _ _ hf h with h | ⟨hd, h⟩
  · exact .inl h
  exact .inr ⟨hf, hc, hd, ((respond_next _).1 h).symm⟩

/-- What GET_CELL can do (R190). -/
theorem execGetCell_cases (x y : Nat) (h : execGetCell x y s = .next t) :
    Stopped s t ∨
      (s.faulted = false ∧ s.created = true ∧ cellExists s x y = true ∧
        t = s.endRowUse.setResponse ⟨true, valueOfBit (gridCell s.mem.g s.w x y)⟩) := by
  rcases whenCreated_next _ h with h | ⟨hf, hc, h⟩
  · exact .inl h
  rcases require_cases _ _ _ hf h with h | ⟨hd, h⟩
  · exact .inl h
  exact .inr ⟨hf, hc, hd, ((respond_next _).1 h).symm⟩

/-- What SET_CELL can do (R192). -/
theorem execSetCell_cases (x y : Nat) (v : Bool) (h : execSetCell x y v s = .next t) :
    Stopped s t ∨
      (s.faulted = false ∧ s.created = true ∧ cellExists s x y = true ∧
        t = ((s.setMem (s.mem.setGrid (setGridCell s.mem.g s.w x y v))).endRowUse).setResponse ⟨true, 0⟩) := by
  rcases whenCreated_next _ h with h | ⟨hf, hc, h⟩
  · exact .inl h
  rcases require_cases _ _ _ hf h with h | ⟨hd, h⟩
  · exact .inl h
  exact .inr ⟨hf, hc, hd, ((respond_next _).1 h).symm⟩

/-- What ADVANCE can do (R266, R271). -/
theorem execAdvance_cases (h : execAdvance s = .next t) :
    Stopped s t ∨
      (s.faulted = false ∧ s.created = true ∧ s.time.toNat < s.timeLimit ∧
        t = (s.commit (nextRows s.nbh s.mem.g s.w s.h)).setResponse ⟨true, 0⟩) := by
  rcases whenCreated_next _ h with h | ⟨hf, hc, h⟩
  · exact .inl h
  rcases require_cases _ _ _ hf h with h | ⟨hd, h⟩
  · exact .inl h
  exact .inr ⟨hf, hc, hd, ((respond_next _).1 h).symm⟩

/-- What the register reads that need a grid can do (R194 to R196). -/
theorem readRegister_cases (v : Word) (h : whenCreated s (respond v s) = .next t) :
    Stopped s t ∨ (s.faulted = false ∧ s.created = true ∧ t = s.setResponse ⟨true, v⟩) := by
  rcases whenCreated_next _ h with h | ⟨hf, hc, h⟩
  · exact .inl h
  exact .inr ⟨hf, hc, ((respond_next _).1 h).symm⟩

end Sys2Proof.Machine
end

