-- ==== Sys2Proof/Laws/PerInstr.lean ====
section
/-!
SUPPORT. The family MatchesOwnRow, one lemma per constructor: the encoder's word of a command, under the mask of the command's row
in the table of 30_encoding R99, is the row's match, for every value of the operands.
-/

namespace Sys2Proof.Laws.MatchesOwnRow

/-- The word of a command matches the command's own row of R99. -/
def Statement (i : Instr) : Prop := encode i &&& i.opcode.mask = i.opcode.matchWord

/-! ### The masks, format by format -/

/-- A mask that keeps every bit of format H. -/
theorem encodeH_all (op : BitVec 6) :
    encodeH op false false 0 0 &&& 0xFFFFFFFFFFFFFFFF#64 = (op ++ 0#58 : BitVec (6 + 58)) := by
  decide +revert

/-- The mask of CREATE: NB, A and B are free. -/
theorem encodeH_create (op : BitVec 6) (nb : Bool) (a b : Nat) :
    encodeH op false nb a b &&& 0xFEFFFF0000000000#64 = (op ++ 0#58 : BitVec (6 + 58)) := by
  rw [show 0xFEFFFF0000000000#64 = (0x3f#6 ++ 1#1 ++ 0#1 ++ 0xffff#16 ++ 0#20 ++ 0#20 :
    BitVec (6 + 1 + 1 + 16 + 20 + 20)) by decide, encodeH_and]
  simp only [BitVec.and_zero]
  clear a b nb
  decide +revert

/-- The mask of GET_CELL: A and B are free. -/
theorem encodeH_getCell (op : BitVec 6) (a b : Nat) :
    encodeH op false false a b &&& 0xFFFFFF0000000000#64 = (op ++ 0#58 : BitVec (6 + 58)) := by
  rw [show 0xFFFFFF0000000000#64 = (0x3f#6 ++ 1#1 ++ 1#1 ++ 0xffff#16 ++ 0#20 ++ 0#20 :
    BitVec (6 + 1 + 1 + 16 + 20 + 20)) by decide, encodeH_and]
  simp only [BitVec.and_zero]
  clear a b
  decide +revert

/-- The mask of SET_CELL: V, A and B are free. -/
theorem encodeH_setCell (op : BitVec 6) (v : Bool) (a b : Nat) :
    encodeH op v false a b &&& 0xFDFFFF0000000000#64 = (op ++ 0#58 : BitVec (6 + 58)) := by
  rw [show 0xFDFFFF0000000000#64 = (0x3f#6 ++ 0#1 ++ 1#1 ++ 0xffff#16 ++ 0#20 ++ 0#20 :
    BitVec (6 + 1 + 1 + 16 + 20 + 20)) by decide, encodeH_and]
  simp only [BitVec.and_zero]
  clear a b v
  decide +revert

/-- The mask of the RI commands but ROW_SET: the slot and IMM are free. -/
theorem encodeRI_imm (op : BitVec 6) (d : Slot) (n : Nat) :
    encodeRI op false false d n &&& 0xFFC00000FFF00000#64 = (op ++ 0#58 : BitVec (6 + 58)) := by
  rw [show 0xFFC00000FFF00000#64 = (0x3f#6 ++ 1#1 ++ 1#1 ++ 3#2 ++ 0#2 ++ 0#20 ++ 0xfff#12 ++ 0#20 :
    BitVec (6 + 1 + 1 + 2 + 2 + 20 + 12 + 20)) by decide, encodeRI_and]
  simp only [BitVec.and_zero]
  clear d n
  decide +revert

/-- The mask of ROW_SET: V, VS, the slot and IMM are free. -/
theorem encodeRI_set (op : BitVec 6) (v vs : Bool) (d : Slot) (n : Nat) :
    encodeRI op v vs d n &&& 0xFCC00000FFF00000#64 = (op ++ 0#58 : BitVec (6 + 58)) := by
  rw [show 0xFCC00000FFF00000#64 = (0x3f#6 ++ 0#1 ++ 0#1 ++ 3#2 ++ 0#2 ++ 0#20 ++ 0xfff#12 ++ 0#20 :
    BitVec (6 + 1 + 1 + 2 + 2 + 20 + 12 + 20)) by decide, encodeRI_and]
  simp only [BitVec.and_zero]
  clear d n v vs
  decide +revert

/-- The mask of the R commands: both slots are free. -/
theorem encodeR_slots (op : BitVec 6) (d src : Slot) :
    encodeR op d src &&& 0xFFC00000FFC00000#64 = (op ++ 0#58 : BitVec (6 + 58)) := by
  rw [show 0xFFC00000FFC00000#64 = (0x3f#6 ++ 0xf#4 ++ 0#2 ++ 0#20 ++ 0x3ff#10 ++ 0#2 ++ 0#20 :
    BitVec (6 + 4 + 2 + 20 + 10 + 2 + 20)) by decide, encodeR_and]
  simp only [BitVec.and_zero]
  clear d src
  decide +revert

/-- The mask of ROW_CLEAR: the slot is free. -/
theorem encodeR1_slot (op : BitVec 6) (d : Slot) :
    encodeR1 op d &&& 0xFFC00000FFFFFFFF#64 = (op ++ 0#58 : BitVec (6 + 58)) := by
  rw [show 0xFFC00000FFFFFFFF#64 = (0x3f#6 ++ 0xf#4 ++ 0#2 ++ 0#20 ++ 0xffffffff#32 :
    BitVec (6 + 4 + 2 + 20 + 32)) by decide, encodeR1_and]
  simp only [BitVec.and_zero]
  clear d
  decide +revert

/-! ### The commands -/

theorem create (w h : Nat) (nbh : Neighborhood) : Statement (.create w h nbh) := encodeH_create _ _ _ _
theorem clear : Statement .clear := encodeH_all _
theorem putRandom : Statement .putRandom := encodeH_all _
theorem putFixedSeed : Statement .putFixedSeed := encodeH_all _
theorem advance : Statement .advance := encodeH_all _
theorem getCell (x y : Nat) : Statement (.getCell x y) := encodeH_getCell _ _ _
theorem setCell (x y : Nat) (v : Bool) : Statement (.setCell x y v) := encodeH_setCell _ _ _ _
theorem readGen : Statement .readGen := encodeH_all _
theorem readWidth : Statement .readWidth := encodeH_all _
theorem readHeight : Statement .readHeight := encodeH_all _
theorem readStatus : Statement .readStatus := encodeH_all _
theorem readFcmd : Statement .readFcmd := encodeH_all _
theorem rowCreate (d : Slot) (n : Nat) : Statement (.rowCreate d n) := encodeRI_imm _ _ _
theorem rowRandom (d : Slot) (n : Nat) : Statement (.rowRandom d n) := encodeRI_imm _ _ _
theorem rowGet (d : Slot) (n : Nat) : Statement (.rowGet d n) := encodeRI_imm _ _ _
theorem rowSet (d : Slot) (n : Nat) (v : BitSource) : Statement (.rowSet d n v) := encodeRI_set _ _ _ _ _
theorem rowClear (d : Slot) : Statement (.rowClear d) := encodeR1_slot _ _
theorem rowAnd (d src : Slot) : Statement (.rowAnd d src) := encodeR_slots _ _ _
theorem rowOr (d src : Slot) : Statement (.rowOr d src) := encodeR_slots _ _ _
theorem rowXor (d src : Slot) : Statement (.rowXor d src) := encodeR_slots _ _ _
theorem rowNot (d src : Slot) : Statement (.rowNot d src) := encodeR_slots _ _ _
theorem rowCopy (d src : Slot) : Statement (.rowCopy d src) := encodeR_slots _ _ _
theorem rowShl (d : Slot) (n : Nat) : Statement (.rowShl d n) := encodeRI_imm _ _ _
theorem rowShr (d : Slot) (n : Nat) : Statement (.rowShr d n) := encodeRI_imm _ _ _

end Sys2Proof.Laws.MatchesOwnRow
end

