-- ==== Sys2Proof/Laws/Step.lean ====
section
/-!
SUPPORT. What a step can do, once: nothing, a reset, or one command or decoder fault on the state that has accepted the
word (Machine/Ports.lean).
-/

namespace Sys2Proof.Machine

variable {s t : State}

/-- A word the decoder faults stops the command: the fault is entered, or the word is refused (R103, R304, R305). -/
theorem decodeFault_cases (f : FaultCode) (h : decodeFault f s = .next t) : Stopped s t := by
  by_cases hf : s.faulted = true
  · rw [decodeFault, whenRunning_neg _ hf] at h
    exact .turnedAway hf (by simpa using h.symm)
  · have hf : s.faulted = false := by simpa using hf
    rw [decodeFault, whenRunning_pos _ hf] at h
    exact .fault hf f ((raiseFault_next f).1 h).symm

/-- What an accepted word can do: run the command it decodes to, or stop. -/
theorem runAccepted_cases (a : Accepted) (h : runAccepted a = .next t) :
    (∃ i, decode a.port a.word = .ok i ∧ exec i a.state = .next t) ∨ Stopped a.state t := by
  unfold runAccepted at h
  split at h
  · rename_i i hi
    exact .inl ⟨i, hi, h⟩
  · exact .inr (decodeFault_cases _ h)

/-- What a step can do, by the next event of the inputs. -/
theorem step_cases (h : step s = .next t) :
    (s.inbox = [] ∧ t = s) ∨
    (∃ rest, ((s.inbox = .reset :: rest) ∨ ∃ w, s.inbox = .resetDuring w :: rest) ∧
      t = { s with inbox := rest }.applyReset) ∨
    (∃ w rest, s.inbox = .hostWord w :: rest ∧
      runAccepted ⟨.host, w, { s with inbox := rest, hostWord := w }⟩ = .next t) ∨
    ∃ w rest, s.inbox = .rowWord w :: rest ∧ runAccepted ⟨.row, w, { s with inbox := rest }⟩ = .next t := by
  unfold step State.accept at h
  rcases hi : s.inbox with _ | ⟨e, rest⟩
  · rw [hi] at h
    exact .inl ⟨rfl, by simpa using h.symm⟩
  · rw [hi] at h
    cases e with
    | hostWord w => exact .inr (.inr (.inl ⟨w, rest, rfl, h⟩))
    | rowWord w => exact .inr (.inr (.inr ⟨w, rest, rfl, h⟩))
    | reset => exact .inr (.inl ⟨rest, .inl rfl, by simpa using h.symm⟩)
    | resetDuring w => exact .inr (.inl ⟨rest, .inr ⟨w, rfl⟩, by simpa using h.symm⟩)

end Sys2Proof.Machine
end

