-- ==== Sys2Proof/Machine/Assembler.lean ====
section
/-!
DEFINITION. The assembler syntax (30_encoding R105): one command per line, a comment after a semicolon, decimal or 0x
hexadecimal numbers, slots written with their space's letter; and the pseudo-commands of R106 in the same syntax.
The syntax is a written form of the commands: nothing the block does depends on it (log 17).
-/

namespace Sys2Proof.Machine

/-- A token of a line. -/
inductive Token where
  /-- a mnemonic, a space letter, `moore`, `vonneumann` or `B` -/
  | name (s : List Char)
  | num (n : Nat)
  | comma
  | lbracket
  | rbracket
deriving DecidableEq, Repr

/-- The value of a digit in a base up to 16. -/
def digitValue (base : Nat) (c : Char) : Option Nat :=
  let v :=
    if '0' ≤ c ∧ c ≤ '9' then c.toNat - '0'.toNat
    else if 'a' ≤ c ∧ c ≤ 'f' then c.toNat - 'a'.toNat + 10
    else if 'A' ≤ c ∧ c ≤ 'F' then c.toNat - 'A'.toNat + 10
    else base
  if v < base then some v else none

/-- The number the digits write, most significant first, after those already read. -/
def digitsValue (base : Nat) : List Char → Nat → Option Nat
  | [], acc => some acc
  | c :: cs, acc =>
    match digitValue base c with
    | some v => digitsValue base cs (acc * base + v)
    | none => none

/-- A word of a line as a token: a decimal or 0x hexadecimal number if it begins with a digit, else a name (R105). -/
def tokenOfWord (cs : List Char) : Option Token :=
  match cs with
  | '0' :: 'x' :: d :: ds => (digitsValue 16 (d :: ds) 0).map .num
  | c :: rest =>
    if '0' ≤ c ∧ c ≤ '9' then (digitsValue 10 (c :: rest) 0).map .num else some (.name cs)
  | [] => none

/-- A character that can stand in a name or a number. -/
def wordChar (c : Char) : Bool := c.isAlphanum || c == '_'

/-- The tokens of a line, up to a comment; `none` for a character outside the syntax. The second argument holds the
characters of the word being read, last first. -/
def tokens : List Char → List Char → Option (List Token)
  | [], word => if word.isEmpty then some [] else (tokenOfWord word.reverse).map fun t => [t]
  | c :: rest, word =>
    if wordChar c then tokens rest (c :: word)
    else
      let before : Option (List Token) :=
        if word.isEmpty then some [] else (tokenOfWord word.reverse).map fun t => [t]
      let after : Option (List Token) :=
        if c = ';' then some []
        else if c = ' ' ∨ c = '\t' ∨ c = '\r' then tokens rest []
        else if c = ',' then (tokens rest []).map (Token.comma :: ·)
        else if c = '[' then (tokens rest []).map (Token.lbracket :: ·)
        else if c = ']' then (tokens rest []).map (Token.rbracket :: ·)
        else none
      match before, after with
      | some a, some b => some (a ++ b)
      | _, _ => none

/-- An operand of a line. -/
inductive Operand where
  | num (n : Nat)
  | slot (d : Slot)
  | name (s : List Char)
deriving DecidableEq, Repr

/-- The space a letter names (R105). -/
def spaceOfName (s : List Char) : Option Space :=
  if s = ['G'] then some .g else if s = ['N'] then some .n else if s = ['T'] then some .t else none

/-- The comma-separated operands of a line. -/
def operands : List Token → Option (List Operand)
  | [.num n] => some [.num n]
  | .num n :: .comma :: rest => (operands rest).map (Operand.num n :: ·)
  | [.name s, .lbracket, .num i, .rbracket] => (spaceOfName s).map fun sp => [.slot ⟨sp, i⟩]
  | .name s :: .lbracket :: .num i :: .rbracket :: .comma :: rest =>
    match spaceOfName s, operands rest with
    | some sp, some l => some (.slot ⟨sp, i⟩ :: l)
    | _, _ => none
  | [.name s] => some [.name s]
  | .name s :: .comma :: rest => (operands rest).map (Operand.name s :: ·)
  | _ => none

/-- The mnemonic of a command as the spec spells it (R98). -/
def opcodeMnemonic : Opcode → List Char
  | .create => "CREATE".toList
  | .clear => "CLEAR".toList
  | .putRandom => "PUT_RANDOM".toList
  | .putFixedSeed => "PUT_FIXED_SEED".toList
  | .advance => "ADVANCE".toList
  | .getCell => "GET_CELL".toList
  | .setCell => "SET_CELL".toList
  | .readGen => "READ_GEN".toList
  | .readWidth => "READ_WIDTH".toList
  | .readHeight => "READ_HEIGHT".toList
  | .readStatus => "READ_STATUS".toList
  | .readFcmd => "READ_FCMD".toList
  | .rowCreate => "ROW_CREATE".toList
  | .rowRandom => "ROW_RANDOM".toList
  | .rowGet => "ROW_GET".toList
  | .rowSet => "ROW_SET".toList
  | .rowClear => "ROW_CLEAR".toList
  | .rowAnd => "ROW_AND".toList
  | .rowOr => "ROW_OR".toList
  | .rowXor => "ROW_XOR".toList
  | .rowNot => "ROW_NOT".toList
  | .rowCopy => "ROW_COPY".toList
  | .rowShl => "ROW_SHL".toList
  | .rowShr => "ROW_SHR".toList

/-- Every opcode, in the order of R98. -/
def allOpcodes : List Opcode :=
  [.create, .clear, .putRandom, .putFixedSeed, .advance, .getCell, .setCell, .readGen, .readWidth, .readHeight,
   .readStatus, .readFcmd, .rowCreate, .rowRandom, .rowGet, .rowSet, .rowClear, .rowAnd, .rowOr, .rowXor, .rowNot,
   .rowCopy, .rowShl, .rowShr]

/-- The neighborhood a CREATE line names (R105). -/
def neighborhoodOfName (s : List Char) : Option Neighborhood :=
  if s = "moore".toList then some .moore else if s = "vonneumann".toList then some .vonNeumann else none

/-- The command of an opcode with the operands of its line (R105). -/
def commandOf (op : Opcode) (ops : List Operand) : Option Instr :=
  match op, ops with
  | .create, [.num w, .num h, .name s] => (neighborhoodOfName s).map (Instr.create w h)
  | .clear, [] => some .clear
  | .putRandom, [] => some .putRandom
  | .putFixedSeed, [] => some .putFixedSeed
  | .advance, [] => some .advance
  | .getCell, [.num x, .num y] => some (.getCell x y)
  | .setCell, [.num x, .num y, .num 0] => some (.setCell x y false)
  | .setCell, [.num x, .num y, .num 1] => some (.setCell x y true)
  | .readGen, [] => some .readGen
  | .readWidth, [] => some .readWidth
  | .readHeight, [] => some .readHeight
  | .readStatus, [] => some .readStatus
  | .readFcmd, [] => some .readFcmd
  | .rowCreate, [.slot d, .num n] => some (.rowCreate d n)
  | .rowRandom, [.slot d, .num n] => some (.rowRandom d n)
  | .rowGet, [.slot d, .num i] => some (.rowGet d i)
  | .rowSet, [.slot d, .num i, .num 0] => some (.rowSet d i (.imm false))
  | .rowSet, [.slot d, .num i, .num 1] => some (.rowSet d i (.imm true))
  | .rowSet, [.slot d, .num i, .name ['B']] => some (.rowSet d i .breg)
  | .rowClear, [.slot d] => some (.rowClear d)
  | .rowAnd, [.slot d, .slot src] => some (.rowAnd d src)
  | .rowOr, [.slot d, .slot src] => some (.rowOr d src)
  | .rowXor, [.slot d, .slot src] => some (.rowXor d src)
  | .rowNot, [.slot d, .slot src] => some (.rowNot d src)
  | .rowCopy, [.slot d, .slot src] => some (.rowCopy d src)
  | .rowShl, [.slot d, .num k] => some (.rowShl d k)
  | .rowShr, [.slot d, .num k] => some (.rowShr d k)
  | _, _ => none

/-- The pseudo-command a line names (R106), for rows of count `n`, which the sequencer knows. -/
def pseudoOf (n : Nat) (name : List Char) (ops : List Operand) : Option Pseudo :=
  if name = "SEED_DEAD".toList ∧ ops = [] then some .seedDead
  else if name = "SEED_RANDOM".toList ∧ ops = [] then some .seedRandom
  else if name = "SEED_FIXED".toList ∧ ops = [] then some .seedFixed
  else if name = "ROW_ROTL1".toList then
    match ops with
    | [.slot d, .slot s] => some (.rotl1 d s n)
    | _ => none
  else if name = "ROW_ROTR1".toList then
    match ops with
    | [.slot d, .slot s] => some (.rotr1 d s n)
    | _ => none
  else if name = "ROW_HA".toList then
    match ops with
    | [.slot s, .slot c, .slot x, .slot y] => some (.ha s c x y)
    | _ => none
  else if name = "ROW_FA".toList then
    match ops with
    | [.slot s, .slot c, .slot x, .slot y, .slot z, .slot t] => some (.fa s c x y z t)
    | _ => none
  else none

/-- The commands of a line whose first token is a name: one command that its encoding can carry, or the expansion of an
admissible pseudo-command (R105, R106). -/
def commandsOf (n : Nat) (name : List Char) (ops : List Operand) : Option (List Instr) :=
  match allOpcodes.find? fun op => opcodeMnemonic op == name with
  | some op =>
    match commandOf op ops with
    | some i => if i.wellFormed then some [i] else none
    | none => none
  | none =>
    match pseudoOf n name ops with
    | some p => if p.admissible && p.expand.all Instr.wellFormed then some p.expand else none
    | none => none

/-- The commands of one line; none for an empty line or a comment (R105). -/
def assembleLine (n : Nat) (line : List Char) : Option (List Instr) :=
  match tokens line [] with
  | some [] => some []
  | some [.name m] => commandsOf n m []
  | some (.name m :: rest) =>
    match operands rest with
    | some ops => commandsOf n m ops
    | none => none
  | _ => none

/-- The lines of a text. -/
def textLines : List Char → List Char → List (List Char)
  | [], line => [line.reverse]
  | c :: rest, line => if c = '\n' then line.reverse :: textLines rest [] else textLines rest (c :: line)

/-- The command words of a program text, one command per line (R105); `none` if a line is not in the syntax. -/
def assemble (n : Nat) (text : String) : Option (List Word) :=
  ((textLines text.toList []).mapM (assembleLine n)).map fun ls => ls.flatten.map encode

end Sys2Proof.Machine
end

