-- ==== Sys2Proof/Tests/Slice0.lean ====
section
/-!
SUPPORT. Tests: ill-formed terms, words written out from 30_encoding and section 3 of 95_test_vectors.md, one step of each
command on the states of 95_test_vectors.md, and for every statement with hypotheses a state and operands that meet them.
-/

namespace Sys2Proof.Tests

open Sys2Proof.Machine Sys2Proof.Safety

-- many small kernel evaluations: one after another, not a thread each
set_option Elab.async false

/-! ### Well-formedness: a term for each check (R92) -/

theorem test_illFormed_create_width : Instr.wellFormed (.create 1048576 5 .moore) = false := by decide
theorem test_illFormed_create_height : Instr.wellFormed (.create 5 1048576 .moore) = false := by decide
theorem test_illFormed_getCell_x : Instr.wellFormed (.getCell 1048576 0) = false := by decide
theorem test_illFormed_getCell_y : Instr.wellFormed (.getCell 0 1048576) = false := by decide
theorem test_illFormed_setCell_x : Instr.wellFormed (.setCell 1048576 0 true) = false := by decide
theorem test_illFormed_setCell_y : Instr.wellFormed (.setCell 0 1048576 true) = false := by decide
theorem test_illFormed_rowCreate_slot : Instr.wellFormed (.rowCreate ⟨.t, 1048576⟩ 1) = false := by decide
theorem test_illFormed_rowCreate_imm : Instr.wellFormed (.rowCreate ⟨.t, 0⟩ 1048576) = false := by decide
theorem test_illFormed_rowRandom_slot : Instr.wellFormed (.rowRandom ⟨.t, 1048576⟩ 1) = false := by decide
theorem test_illFormed_rowRandom_imm : Instr.wellFormed (.rowRandom ⟨.t, 0⟩ 1048576) = false := by decide
theorem test_illFormed_rowGet_slot : Instr.wellFormed (.rowGet ⟨.t, 1048576⟩ 1) = false := by decide
theorem test_illFormed_rowGet_imm : Instr.wellFormed (.rowGet ⟨.t, 0⟩ 1048576) = false := by decide
theorem test_illFormed_rowShl_slot : Instr.wellFormed (.rowShl ⟨.t, 1048576⟩ 1) = false := by decide
theorem test_illFormed_rowShl_imm : Instr.wellFormed (.rowShl ⟨.t, 0⟩ 1048576) = false := by decide
theorem test_illFormed_rowShr_slot : Instr.wellFormed (.rowShr ⟨.t, 1048576⟩ 1) = false := by decide
theorem test_illFormed_rowShr_imm : Instr.wellFormed (.rowShr ⟨.t, 0⟩ 1048576) = false := by decide
theorem test_illFormed_rowSet_slot : Instr.wellFormed (.rowSet ⟨.t, 1048576⟩ 1 .breg) = false := by decide
theorem test_illFormed_rowSet_imm : Instr.wellFormed (.rowSet ⟨.t, 0⟩ 1048576 .breg) = false := by decide
theorem test_illFormed_rowClear_slot : Instr.wellFormed (.rowClear ⟨.t, 1048576⟩) = false := by decide
theorem test_illFormed_rowAnd_dst : Instr.wellFormed (.rowAnd ⟨.t, 1048576⟩ ⟨.t, 0⟩) = false := by decide
theorem test_illFormed_rowAnd_src : Instr.wellFormed (.rowAnd ⟨.t, 0⟩ ⟨.t, 1048576⟩) = false := by decide
theorem test_illFormed_rowOr_dst : Instr.wellFormed (.rowOr ⟨.t, 1048576⟩ ⟨.t, 0⟩) = false := by decide
theorem test_illFormed_rowOr_src : Instr.wellFormed (.rowOr ⟨.t, 0⟩ ⟨.t, 1048576⟩) = false := by decide
theorem test_illFormed_rowXor_dst : Instr.wellFormed (.rowXor ⟨.t, 1048576⟩ ⟨.t, 0⟩) = false := by decide
theorem test_illFormed_rowXor_src : Instr.wellFormed (.rowXor ⟨.t, 0⟩ ⟨.t, 1048576⟩) = false := by decide
theorem test_illFormed_rowNot_dst : Instr.wellFormed (.rowNot ⟨.t, 1048576⟩ ⟨.t, 0⟩) = false := by decide
theorem test_illFormed_rowNot_src : Instr.wellFormed (.rowNot ⟨.t, 0⟩ ⟨.t, 1048576⟩) = false := by decide
theorem test_illFormed_rowCopy_dst : Instr.wellFormed (.rowCopy ⟨.t, 1048576⟩ ⟨.t, 0⟩) = false := by decide
theorem test_illFormed_rowCopy_src : Instr.wellFormed (.rowCopy ⟨.t, 0⟩ ⟨.t, 1048576⟩) = false := by decide

/-- The largest field values are well formed. -/
theorem test_wellFormed_largest : Instr.wellFormed (.rowAnd ⟨.g, 1048575⟩ ⟨.n, 1048575⟩) = true := by decide

/-! ### Decoding: words of R107 and of section 3 of 95_test_vectors.md -/

/-- V3-2. -/
theorem test_decode_create : decode .host 0x0500000000500005#64 = .ok (.create 5 5 .moore) ∧ encode (.create 5 5 .moore) = 0x0500000000500005#64 := by decide
/-- V3-3. -/
theorem test_decode_create_vonNeumann : decode .host 0x0400000000500005#64 = .ok (.create 5 5 .vonNeumann) ∧ encode (.create 5 5 .vonNeumann) = 0x0400000000500005#64 := by decide
/-- V3-5. -/
theorem test_decode_create_largest : decode .host 0x050000FFFFFFFFFF#64 = .ok (.create 1048575 1048575 .moore) ∧ encode (.create 1048575 1048575 .moore) = 0x050000FFFFFFFFFF#64 := by decide
/-- V3-6. -/
theorem test_decode_clear : decode .host 0x0800000000000000#64 = .ok (.clear) ∧ encode (.clear) = 0x0800000000000000#64 := by decide
/-- V3-9. -/
theorem test_decode_putRandom : decode .host 0x0C00000000000000#64 = .ok (.putRandom) ∧ encode (.putRandom) = 0x0C00000000000000#64 := by decide
/-- V3-10. -/
theorem test_decode_putFixedSeed : decode .host 0x1000000000000000#64 = .ok (.putFixedSeed) ∧ encode (.putFixedSeed) = 0x1000000000000000#64 := by decide
/-- V3-11. -/
theorem test_decode_advance : decode .host 0x1400000000000000#64 = .ok (.advance) ∧ encode (.advance) = 0x1400000000000000#64 := by decide
/-- V3-13. -/
theorem test_decode_getCell : decode .host 0x1800000000300007#64 = .ok (.getCell 3 7) ∧ encode (.getCell 3 7) = 0x1800000000300007#64 := by decide
/-- V3-15. -/
theorem test_decode_setCell : decode .host 0x1E00000000100002#64 = .ok (.setCell 1 2 true) ∧ encode (.setCell 1 2 true) = 0x1E00000000100002#64 := by decide
/-- V3-16. -/
theorem test_decode_setCell_dead : decode .host 0x1C00000000100002#64 = .ok (.setCell 1 2 false) ∧ encode (.setCell 1 2 false) = 0x1C00000000100002#64 := by decide
/-- V3-18. -/
theorem test_decode_readGen : decode .host 0x2000000000000000#64 = .ok (.readGen) ∧ encode (.readGen) = 0x2000000000000000#64 := by decide
/-- V3-19. -/
theorem test_decode_readWidth : decode .host 0x2400000000000000#64 = .ok (.readWidth) ∧ encode (.readWidth) = 0x2400000000000000#64 := by decide
/-- V3-20. -/
theorem test_decode_readHeight : decode .host 0x2800000000000000#64 = .ok (.readHeight) ∧ encode (.readHeight) = 0x2800000000000000#64 := by decide
/-- V3-21. -/
theorem test_decode_readStatus : decode .host 0x2C00000000000000#64 = .ok (.readStatus) ∧ encode (.readStatus) = 0x2C00000000000000#64 := by decide
/-- V3-23. -/
theorem test_decode_readFcmd : decode .host 0x3000000000000000#64 = .ok (.readFcmd) ∧ encode (.readFcmd) = 0x3000000000000000#64 := by decide
/-- V3-28. -/
theorem test_decode_rowCreate : decode .row 0x4020000300000046#64 = .ok (.rowCreate ⟨.t, 3⟩ 70) ∧ encode (.rowCreate ⟨.t, 3⟩ 70) = 0x4020000300000046#64 := by decide
/-- V3-29. -/
theorem test_decode_rowRandom : decode .row 0x4410000100000005#64 = .ok (.rowRandom ⟨.n, 1⟩ 5) ∧ encode (.rowRandom ⟨.n, 1⟩ 5) = 0x4410000100000005#64 := by decide
/-- V3-30. -/
theorem test_decode_rowGet : decode .row 0x4800000200000004#64 = .ok (.rowGet ⟨.g, 2⟩ 4) ∧ encode (.rowGet ⟨.g, 2⟩ 4) = 0x4800000200000004#64 := by decide
/-- V3-31. -/
theorem test_decode_rowSet : decode .row 0x4E20000000000001#64 = .ok (.rowSet ⟨.t, 0⟩ 1 (.imm true)) ∧ encode (.rowSet ⟨.t, 0⟩ 1 (.imm true)) = 0x4E20000000000001#64 := by decide
/-- V3-32. -/
theorem test_decode_rowSet_breg : decode .row 0x4D20000000000001#64 = .ok (.rowSet ⟨.t, 0⟩ 1 .breg) ∧ encode (.rowSet ⟨.t, 0⟩ 1 .breg) = 0x4D20000000000001#64 := by decide
/-- V3-34. -/
theorem test_decode_rowClear : decode .row 0x5000000100000000#64 = .ok (.rowClear ⟨.g, 1⟩) ∧ encode (.rowClear ⟨.g, 1⟩) = 0x5000000100000000#64 := by decide
/-- V3-36. -/
theorem test_decode_rowAnd : decode .row 0x5420000200200001#64 = .ok (.rowAnd ⟨.t, 2⟩ ⟨.t, 1⟩) ∧ encode (.rowAnd ⟨.t, 2⟩ ⟨.t, 1⟩) = 0x5420000200200001#64 := by decide
/-- V3-37. -/
theorem test_decode_rowOr : decode .row 0x5810000000000004#64 = .ok (.rowOr ⟨.n, 0⟩ ⟨.g, 4⟩) ∧ encode (.rowOr ⟨.n, 0⟩ ⟨.g, 4⟩) = 0x5810000000000004#64 := by decide
/-- V3-38. -/
theorem test_decode_rowXor : decode .row 0x5C20000900200009#64 = .ok (.rowXor ⟨.t, 9⟩ ⟨.t, 9⟩) ∧ encode (.rowXor ⟨.t, 9⟩ ⟨.t, 9⟩) = 0x5C20000900200009#64 := by decide
/-- V3-39. -/
theorem test_decode_rowNot : decode .row 0x6020000100200000#64 = .ok (.rowNot ⟨.t, 1⟩ ⟨.t, 0⟩) ∧ encode (.rowNot ⟨.t, 1⟩ ⟨.t, 0⟩) = 0x6020000100200000#64 := by decide
/-- V3-40. -/
theorem test_decode_rowCopy : decode .row 0x6410000200200000#64 = .ok (.rowCopy ⟨.n, 2⟩ ⟨.t, 0⟩) ∧ encode (.rowCopy ⟨.n, 2⟩ ⟨.t, 0⟩) = 0x6410000200200000#64 := by decide
/-- V3-41. -/
theorem test_decode_rowShl : decode .row 0x6820000000000001#64 = .ok (.rowShl ⟨.t, 0⟩ 1) ∧ encode (.rowShl ⟨.t, 0⟩ 1) = 0x6820000000000001#64 := by decide
/-- V3-42. -/
theorem test_decode_rowShr : decode .row 0x6C20000000000040#64 = .ok (.rowShr ⟨.t, 0⟩ 64) ∧ encode (.rowShr ⟨.t, 0⟩ 64) = 0x6C20000000000040#64 := by decide

/-- V3-1. -/
theorem test_reject_allZero : decode .host 0x0000000000000000#64 = .error .illegalCommand ∧ decode .row 0x0000000000000000#64 = .error .illegalCommand := by decide
/-- V3-4. -/
theorem test_reject_create_bit57 : decode .host 0x0700000000500005#64 = .error .illegalCommand ∧ decode .row 0x0700000000500005#64 = .error .illegalCommand := by decide
/-- V3-7. -/
theorem test_reject_clear_bit0 : decode .host 0x0800000000000001#64 = .error .illegalCommand ∧ decode .row 0x0800000000000001#64 = .error .illegalCommand := by decide
/-- V3-24. -/
theorem test_reject_opcode0D : decode .host 0x3400000000000000#64 = .error .illegalCommand ∧ decode .row 0x3400000000000000#64 = .error .illegalCommand := by decide
/-- V3-27. -/
theorem test_reject_opcode3F : decode .host 0xFC00000000000000#64 = .error .illegalCommand ∧ decode .row 0xFC00000000000000#64 = .error .illegalCommand := by decide
/-- V3-33. -/
theorem test_reject_rowSet_vsAndV : decode .host 0x4F20000000000001#64 = .error .rowPortPrivilege ∧ decode .row 0x4F20000000000001#64 = .error .illegalCommand := by decide
/-- V3-46. -/
theorem test_reject_rowAnd_dsp3 : decode .host 0x5430000000200001#64 = .error .rowPortPrivilege ∧ decode .row 0x5430000000200001#64 = .error .illegalCommand := by decide
/-- V3-47. -/
theorem test_reject_rowAnd_ssp3 : decode .host 0x5420000000300001#64 = .error .rowPortPrivilege ∧ decode .row 0x5420000000300001#64 = .error .illegalCommand := by decide
/-- V3-49. -/
theorem test_reject_rowGet_bit57 : decode .host 0x4A20000000000000#64 = .error .rowPortPrivilege ∧ decode .row 0x4A20000000000000#64 = .error .illegalCommand := by decide

/-- V3-2 on the row port: a host opcode is illegal there. -/
theorem test_reject_hostOpcodeOnRowPort : decode .row 0x0500000000500005#64 = .error .illegalCommand := by decide

/-- The last line of section 3: `ROW_ROTL1 T[1], G[0]` on a row of count 8. -/
theorem test_encode_rotl1 :
    (Pseudo.rotl1 (slotT 1) (slotG 0) 8).expand.map encode =
      [0x6420000100000000#64, 0x6820000100000001#64, 0x4800000000000007#64, 0x4D20000100000000#64] := by decide

/-- A table word is decoded on the port of its opcode. -/
theorem test_decodeTableWord :
    decodeTableWord 64 0x542000060020000A = some (.rowAnd ⟨.t, 6⟩ ⟨.t, 10⟩) ∧ decodeTableWord 64 0 = none := by decide

/-! ### One step of each command

The state S2 of section 2 of 95_test_vectors.md, and the outcome of one word. -/

/-- S2: a 5x3 Moore grid. -/
def stateS2 : State :=
  { State.reset with
    created := true
    width := 5
    height := 3
    nbh := .moore
    mem :=
      { g := [⟨5, 0b01110⟩, ⟨5, 0b00001⟩, ⟨5, 0b10000⟩]
        n := [none, none, none]
        t := [some ⟨5, 0b10110⟩, some ⟨5, 0b01100⟩, some ⟨6, 0b111000⟩, none, none,
              some ⟨70, 0x208000000000000000⟩] ++ List.replicate 10 none } }

/-- The response and what `f` reads after one word presented at the port of its opcode. -/
def afterWord {α : Type} (f : State → α) (w : Word) (s : State) : Option (Option Response × α) :=
  match step (s.present (eventForWord w)) with
  | .next t => some (t.response, f t)
  | .fault _ => none
  | .refused _ => none

/-- The fault record and whether nothing else of what a row command can write has changed. -/
def faultOnly (s t : State) : Bool × BitVec 8 × Bool :=
  (t.faulted, t.fcode, decide (t.mem = s.mem ∧ t.breg = s.breg ∧ t.time = s.time))

/-- A completed command's response. -/
def done (v : Word) : Option Response := some ⟨true, v⟩

/-- A faulted or refused command's response. -/
def failed (c : Word) : Option Response := some ⟨false, c⟩

/-- V2-1. -/
theorem test_rowCreate_makesZeros : afterWord (fun t => t.mem.read ⟨.t, 3⟩) 0x4020000300000046#64 stateS2 = some (done 0, some ⟨70, 0⟩) := by
  decide +kernel
/-- V2-8. -/
theorem test_rowCreate_countMismatch : afterWord (faultOnly stateS2) 0x4010000000000006#64 stateS2 = some (failed 0x06, true, 0x06, true) := by
  decide +kernel
/-- V2-13, whatever is drawn: the slot holds a row of count 5. -/
theorem test_rowRandom_makesRow :
    afterWord (fun t => (t.mem.read ⟨.t, 4⟩).map Row.count) 0x4420000400000005#64 stateS2 = some (done 0, some 5) := by
  decide +kernel
/-- V2-16. -/
theorem test_rowRandom_zeroCount : afterWord (faultOnly stateS2) 0x4420000400000000#64 stateS2 = some (failed 0x04, true, 0x04, true) := by
  decide +kernel
/-- V2-20. -/
theorem test_rowGet_pastWord : afterWord (fun t => t.breg) 0x4820000500000045#64 stateS2 = some (done 1, true) := by
  decide +kernel
/-- V2-26: the slot is checked before the bit. -/
theorem test_rowGet_invalidSlotFirst : afterWord (faultOnly stateS2) 0x4820000600000063#64 stateS2 = some (failed 0x08, true, 0x08, true) := by
  decide +kernel
/-- V2-27. -/
theorem test_rowSet_setsBit : afterWord (fun t => t.mem.read ⟨.t, 1⟩) 0x4E20000100000000#64 stateS2 = some (done 0, some ⟨5, 0b01101⟩) := by
  decide +kernel
/-- V2-82, its second command, with the BREG its first leaves. -/
theorem test_rowSet_fromBreg :
    afterWord (fun t => t.mem.read ⟨.t, 1⟩) 0x4D20000100000000#64 (stateS2.setBreg true) =
      some (done 0, some ⟨5, 0b01101⟩) := by
  decide +kernel
/-- V2-35. -/
theorem test_rowClear_keepsCount : afterWord (fun t => t.mem.read ⟨.t, 5⟩) 0x5020000500000000#64 stateS2 = some (done 0, some ⟨70, 0⟩) := by
  decide +kernel
/-- V2-37. -/
theorem test_rowClear_invalidSlot : afterWord (faultOnly stateS2) 0x5010000000000000#64 stateS2 = some (failed 0x08, true, 0x08, true) := by
  decide +kernel
/-- V2-38. -/
theorem test_rowAnd : afterWord (fun t => t.mem.read ⟨.t, 0⟩) 0x5420000000200001#64 stateS2 = some (done 0, some ⟨5, 0b00100⟩) := by
  decide +kernel
/-- V2-45. -/
theorem test_rowAnd_countMismatch : afterWord (faultOnly stateS2) 0x5420000000200002#64 stateS2 = some (failed 0x06, true, 0x06, true) := by
  decide +kernel
/-- V2-39. -/
theorem test_rowOr : afterWord (fun t => t.mem.read ⟨.t, 0⟩) 0x5820000000200001#64 stateS2 = some (done 0, some ⟨5, 0b11110⟩) := by
  decide +kernel
/-- V2-46. -/
theorem test_rowOr_countMismatch : afterWord (faultOnly stateS2) 0x5820000200200000#64 stateS2 = some (failed 0x06, true, 0x06, true) := by
  decide +kernel
/-- V2-43. -/
theorem test_rowXor_sameSlot : afterWord (fun t => t.mem.read ⟨.t, 0⟩) 0x5C20000000200000#64 stateS2 = some (done 0, some ⟨5, 0b00000⟩) := by
  decide +kernel
/-- V2-44. -/
theorem test_rowXor_gridRow : afterWord (fun t => t.mem.read ⟨.g, 0⟩) 0x5C00000000200000#64 stateS2 = some (done 0, some ⟨5, 0b11000⟩) := by
  decide +kernel
/-- V2-53. -/
theorem test_rowNot_takesCount : afterWord (fun t => t.mem.read ⟨.t, 3⟩) 0x6020000300200002#64 stateS2 = some (done 0, some ⟨6, 0b000111⟩) := by
  decide +kernel
/-- V2-54. -/
theorem test_rowNot_inPlace : afterWord (fun t => t.mem.read ⟨.g, 0⟩) 0x6000000000000000#64 stateS2 = some (done 0, some ⟨5, 0b10001⟩) := by
  decide +kernel
/-- V2-57. -/
theorem test_rowCopy_makesValid : afterWord (fun t => t.mem.read ⟨.n, 2⟩) 0x6410000200200000#64 stateS2 = some (done 0, some ⟨5, 0b10110⟩) := by
  decide +kernel
/-- V2-60. -/
theorem test_rowCopy_countMismatch : afterWord (faultOnly stateS2) 0x6400000100200002#64 stateS2 = some (failed 0x06, true, 0x06, true) := by
  decide +kernel
/-- V2-73. -/
theorem test_rowShl_acrossWords : afterWord (fun t => t.mem.read ⟨.t, 5⟩) 0x6820000500000006#64 stateS2 = some (done 0, some ⟨70, 0x200000000000000000⟩) := by
  decide +kernel
/-- V2-77. -/
theorem test_rowShl_range : afterWord (faultOnly stateS2) 0x6820000000000041#64 stateS2 = some (failed 0x07, true, 0x07, true) := by
  decide +kernel
/-- V2-74. -/
theorem test_rowShr_acrossWords : afterWord (fun t => t.mem.read ⟨.t, 5⟩) 0x6C20000500000040#64 stateS2 = some (done 0, some ⟨70, 0x20⟩) := by
  decide +kernel
/-- V2-68. -/
theorem test_rowShr : afterWord (fun t => t.mem.read ⟨.t, 0⟩) 0x6C20000000000001#64 stateS2 = some (done 0, some ⟨5, 0b01011⟩) := by
  decide +kernel

/-- The example of R180. -/
theorem test_create :
    afterWord (fun t => (decide (t.created = true ∧ t.w = 5 ∧ t.h = 5 ∧ t.nbh = .moore), t.mem.g))
      0x0500000000500005#64 State.reset = some (done 0, true, List.replicate 5 ⟨5, 0⟩) := by
  decide +kernel
/-- R180: CREATE once a grid exists. -/
theorem test_create_twice :
    afterWord (faultOnly stateS2) 0x0500000000500005#64 stateS2 = some (failed 0x03, true, 0x03, true) := by
  decide +kernel
/-- R184. -/
theorem test_clear :
    afterWord (fun t => (t.mem.g, t.time, t.mem.read ⟨.t, 0⟩)) 0x0800000000000000#64 (stateS2.setTime 9) =
      some (done 0, [⟨5, 0⟩, ⟨5, 0⟩, ⟨5, 0⟩], 0, none) := by
  decide +kernel
/-- The example of R186, on S2 at generation 7: three rows of count 5, and the generation stays. -/
theorem test_putRandom :
    afterWord (fun t => (t.mem.g.map Row.count, t.time)) 0x0C00000000000000#64 (stateS2.setTime 7) =
      some (done 0, [5, 5, 5], 7) := by
  decide +kernel
/-- R188 on S2: `G[0] = 01110` has (1,0) and (2,0) already, `G[1] = 00001` gains (1,1), `G[2] = 10000` gains (1,2). -/
theorem test_putFixedSeed :
    afterWord (fun t => t.mem.g) 0x1000000000000000#64 stateS2 =
      some (done 0, [⟨5, 0b01110⟩, ⟨5, 0b00011⟩, ⟨5, 0b10010⟩]) := by
  decide +kernel
/-- L1-11: a 2x3 grid cannot hold the seed. -/
theorem test_putFixedSeed_tooNarrow :
    afterWord (fun t => t.fcode) 0x1000000000000000#64 (State.reset.construct 2 3 .moore) =
      some (failed 0x05, 0x05) := by
  decide +kernel
/-- R190 on S2: cell (4, 2) is bit 4 of `G[2] = 10000`. -/
theorem test_getCell : afterWord (fun t => t.mem.g) 0x1800000000400002#64 stateS2 = some (done 1, stateS2.mem.g) := by
  decide +kernel
/-- R190: `x = WIDTH` faults; FCMD is the command's word. -/
theorem test_getCell_range :
    afterWord (fun t => (t.fcode, t.fcmd)) 0x1800000000500000#64 stateS2 =
      some (failed 0x05, 0x05, 0x1800000000500000) := by
  decide +kernel
/-- R192 on S2: cell (0, 2) becomes alive. -/
theorem test_setCell :
    afterWord (fun t => t.mem.g) 0x1E00000000000002#64 stateS2 =
      some (done 0, [⟨5, 0b01110⟩, ⟨5, 0b00001⟩, ⟨5, 0b10001⟩]) := by
  decide +kernel
/-- R194. -/
theorem test_readGen : afterWord (fun t => t.time) 0x2000000000000000#64 (stateS2.setTime 3) = some (done 3, 3) := by
  decide +kernel
/-- The example of R195. -/
theorem test_readWidth : afterWord (fun t => t.w) 0x2400000000000000#64 stateS2 = some (done 5, 5) := by decide +kernel
/-- The example of R196. -/
theorem test_readHeight : afterWord (fun t => t.h) 0x2800000000000000#64 stateS2 = some (done 3, 3) := by decide +kernel

/-- S2 after the fault of the examples of R197 and R198. -/
def stateFaulted : State := stateS2.setFault 0x05 0x1800000000500000

/-- The example of R197: CREATED, NBH, FAULTED, FCODE = 0x05. -/
theorem test_readStatus_faulted :
    afterWord (fun t => t.faulted) 0x2C00000000000000#64 stateFaulted = some (done 0x0507, true) := by
  decide +kernel
/-- R197: after reset STATUS is 0. -/
theorem test_readStatus_reset : afterWord (fun t => t.created) 0x2C00000000000000#64 State.reset = some (done 0, false) := by
  decide +kernel
/-- The example of R198. -/
theorem test_readFcmd :
    afterWord (fun t => t.faulted) 0x3000000000000000#64 stateFaulted = some (done 0x1800000000500000, true) := by
  decide +kernel
/-- R305: another command, and a malformed word, are refused with FCODE. -/
theorem test_refused :
    afterWord (fun t => decide (t.mem = stateS2.mem)) 0x0800000000000000#64 stateFaulted = some (failed 0x05, true) ∧
    afterWord (fun t => t.fcode) 0x0000000000000000#64 stateFaulted = some (failed 0x05, 0x05) := by
  decide +kernel
/-- R130, R310 step 3: a row command that would run is refused in the fault state. -/
theorem test_refused_row :
    afterWord (faultOnly stateFaulted) 0x5000000100000000#64 stateFaulted = some (failed 0x05, true, 0x05, true) := by
  decide +kernel
/-- R355: an N slot that a row word made valid does not survive a host command that uses the row port. -/
theorem test_getCell_dropsScratch :
    (match exec (.rowCreate ⟨.n, 0⟩ 5) stateS2 with
      | .next s => (s.mem.read ⟨.n, 0⟩, afterWord (fun t => t.mem.read ⟨.n, 0⟩) 0x1800000000000000#64 s)
      | _ => (none, none)) = (some ⟨5, 0⟩, some (done 0, none)) := by
  decide +kernel
/-- R181: a command before CREATE. -/
theorem test_notCreated :
    afterWord (fun t => t.fcode) 0x1400000000000000#64 State.reset = some (failed 0x02, 0x02) := by
  decide +kernel
/-- R102: a row opcode on the host port. -/
theorem test_rowOpcodeOnHostPort :
    (match step (stateS2.present (.hostWord 0x5000000100000000)) with
      | .next t => (t.faulted, t.fcode, t.fcmd)
      | .fault _ => (false, 0, 0)
      | .refused _ => (false, 0, 0)) = (true, 0x09, 0x5000000100000000) := by
  decide +kernel

/-- Example L1-4: 4x3 Moore. -/
def stateL14 : State :=
  let s := State.reset.construct 4 3 .moore
  s.setMem (s.mem.setGrid [⟨4, 0b1101⟩, ⟨4, 0b0110⟩, ⟨4, 0b0001⟩])

/-- L1-4, the per-cell next rows. -/
theorem test_advance_moore :
    afterWord (fun t => (t.mem.g, t.time)) 0x1400000000000000#64 stateL14 =
      some (done 0, [⟨4, 0b0101⟩, ⟨4, 0b0100⟩, ⟨4, 0b0001⟩], 1) := by
  decide +kernel
/-- R266: a 1x1 von Neumann grid with its cell alive has count 4 and dies. -/
theorem test_advance_vonNeumann_1x1 :
    afterWord (fun t => t.mem.g) 0x1400000000000000#64
      ((State.reset.construct 1 1 .vonNeumann).setMem ⟨[⟨1, 1⟩], [none], List.replicate 16 none⟩) =
      some (done 0, [⟨1, 0⟩]) := by
  decide +kernel

/-! ### The assembler (R105, R106) -/

/-- Lines of R107, with a comment and a pseudo-command of section 3. -/
theorem test_assemble :
    assemble 8 "CREATE 8, 8, vonneumann ; a grid\nROW_SET T[0], 0, B\n\nROW_CREATE T[3], 0x46\nSEED_FIXED" =
      some [0x0400000000800008#64, 0x4D20000000000000#64, 0x4020000300000046#64, 0x0800000000000000#64,
        0x1000000000000000#64] := by
  decide +kernel


/-! ### Fetching -/

/-- `withFetchWord` presents the word so that the next step runs it. -/
theorem test_withFetchWord :
    (match step (State.reset.withFetchWord 64 0x0500000000500005) with
      | .next t => (t.created, t.inbox)
      | .fault _ => (false, [])
      | .refused _ => (false, [])) = (true, []) := by
  decide +kernel


/-! ### Witnesses: the hypotheses of every statement that has some

`Runs s t`: a step answers the next state `t`. -/

abbrev Runs (s t : State) : Prop := step s = .next t

/-- S2 with the largest TIME. -/
def stateLimit : State := stateS2.setTime 0xFFFFFFFFFFFFFFFF

theorem witness_EveryStepKeepsInvariant :
    Inv (stateS2.present (.hostWord 0x1400000000000000)) ∧
      ∃ t, Runs (stateS2.present (.hostWord 0x1400000000000000)) t := ⟨by decide +kernel, _, rfl⟩

theorem witness_DecodeOfEncode :
    Instr.wellFormed (.create 1048575 0 .moore) = true ∧ Instr.wellFormed (.rowSet ⟨.t, 1048575⟩ 0 .breg) = true := by
  decide

theorem witness_EncodeOfDecode : decode .row 0x4D2FFFFF000FFFFF#64 = .ok (.rowSet ⟨.t, 1048575⟩ 1048575 .breg) := by decide

theorem witness_DecodeIffOneRowMatches :
    0x0800000000000000#64 &&& Opcode.clear.mask = Opcode.clear.matchWord := by decide

theorem witness_ReservedEncodingsAreIllegal :
    stateS2.faulted = false ∧
    (fieldOpc 0x03FFFFFFFFFFFFFF#64).toNat = 0x00 ∧
    (fieldOpc 0x3400000000000000#64).toNat = 0x0D ∧ (fieldOpc 0x3C00000000000000#64).toNat = 0x0F ∧
    (fieldOpc 0x7000000000000000#64).toNat = 0x1C ∧ (fieldOpc 0xFC00000000000000#64).toNat = 0x3F ∧
    (fieldOpc 0x0800000000000001#64 = Opcode.clear.bits ∧
      0x0800000000000001#64 &&& Opcode.clear.mask ≠ Opcode.clear.matchWord) := by decide

theorem witness_WrongPortOpcodesFault :
    stateS2.faulted = false ∧
    (∀ i : Instr, i.wellFormed = true → i.opcode.port = .host → encode i ≠ 0#64) ∧
    (fieldOpc 0x4000000000000000#64).toNat = 0x10 ∧ (fieldOpc 0x6C00000000000000#64).toNat = 0x1B ∧
    (fieldOpc 0x0400000000000000#64).toNat = 0x01 ∧ (fieldOpc 0x3000000000000000#64).toNat = 0x0C := by
  refine ⟨by decide, fun i _ _ h => ?_, by decide, by decide, by decide⟩
  have h0 := congrArg fieldOpc h
  cases i <;> simp [encode] at h0 <;> exact absurd h0 (by decide)

theorem witness_StepRunsDecodedCommand :
    ((stateS2.present (.hostWord 0x0800000000000000)).inbox = [.hostWord 0x0800000000000000] ∧
      decode .host 0x0800000000000000#64 = .ok .clear) ∧
    ((stateS2.present (.rowWord 0x5000000100000000)).inbox = [.rowWord 0x5000000100000000] ∧
      decode .row 0x5000000100000000#64 = .ok (.rowClear ⟨.g, 1⟩)) ∧
    ((stateS2.present (.hostWord 0)).inbox = [.hostWord 0] ∧ decode .host 0#64 = .error .illegalCommand) ∧
    ((stateFaulted.present (.rowWord 0)).inbox = [.rowWord 0] ∧ decode .row 0#64 = .error .illegalCommand) ∧
    stateS2.inbox = [] := by decide

theorem witness_EveryStepAnswersANextState :
    (stateS2.present (.hostWord 0)).inbox = [.hostWord 0] ∨ (stateS2.present (.hostWord 0)).inbox = [.rowWord 0] := by
  decide

theorem witness_FaultsArePrecise_host :
    stateS2.faulted = false ∧ (stateS2.present (.hostWord 0x0500000000500005)).inbox = [.hostWord 0x0500000000500005] ∧
    ∃ t, Runs (stateS2.present (.hostWord 0x0500000000500005)) t ∧ t.faulted = true := ⟨rfl, rfl, _, rfl, rfl⟩

theorem witness_FaultsArePrecise_row :
    stateS2.faulted = false ∧ (stateS2.present (.rowWord 0x5010000000000000)).inbox = [.rowWord 0x5010000000000000] ∧
    ∃ t, Runs (stateS2.present (.rowWord 0x5010000000000000)) t ∧ t.faulted = true := ⟨rfl, rfl, _, rfl, rfl⟩

theorem witness_FaultStateRefusesCommands :
    stateFaulted.faulted = true ∧
    decode .host 0x2C00000000000000#64 = .ok .readStatus ∧ decode .host 0x3000000000000000#64 = .ok .readFcmd ∧
    decode .host 0x0800000000000000#64 = .ok .clear ∧
    (∃ t, Runs (stateFaulted.present (.hostWord 0x0800000000000000)) t) ∧
    resetNext (stateFaulted.present (.hostWord 0x0800000000000000)) = false ∧
    (stateFaulted.present (.rowWord 0x5000000100000000)).inbox = [.rowWord 0x5000000100000000] ∧
    decode .row 0x5000000100000000#64 = .ok (.rowClear ⟨.g, 1⟩) ∧
    Instr.opcode (.rowClear ⟨.g, 1⟩) ≠ .readStatus ∧ Instr.opcode (.rowClear ⟨.g, 1⟩) ≠ .readFcmd :=
  ⟨rfl, by decide, by decide, by decide, ⟨_, rfl⟩, rfl, rfl, by decide, by decide, by decide⟩

theorem witness_FaultedRunsObserveNoChange : stateFaulted.faulted = true := rfl

theorem witness_OnlyResetEndsTheGrid :
    StorageWf (stateS2.present (.rowWord 0x5000000100000000)) ∧
    (∃ t, Runs (stateS2.present (.rowWord 0x5000000100000000)) t) ∧
    resetNext (stateS2.present (.rowWord 0x5000000100000000)) = false ∧ stateS2.created = true :=
  ⟨by decide +kernel, ⟨_, rfl⟩, rfl, rfl⟩

/-- Each branch: CREATE with success and fault, CLEAR, ADVANCE with success and at the limit, another command. -/
theorem witness_TimeIsWrittenByThreeCommands :
    (stateS2.params.Legal ∧ TimeWf stateS2 ∧ TimeWf stateLimit ∧ TimeWf State.reset ∧
      stateS2.faulted = false ∧ stateLimit.faulted = false) ∧
    (∃ t, exec (.create 1 1 .moore) State.reset = .next t ∧ t.faulted = false) ∧
    (∃ t, exec (.create 1 1 .moore) stateS2 = .next t ∧ t.faulted = true) ∧
    (∃ t, exec .clear stateS2 = .next t ∧ t.faulted = false) ∧
    (∃ t, exec .advance stateS2 = .next t ∧ t.faulted = false) ∧
    (∃ t, exec .advance stateLimit = .next t ∧ t.faulted = true) ∧
    ∃ t, exec .readGen stateS2 = .next t :=
  ⟨by decide +kernel, ⟨_, rfl, rfl⟩, ⟨_, rfl, rfl⟩, ⟨_, rfl, rfl⟩, ⟨_, rfl, rfl⟩, ⟨_, rfl, rfl⟩, ⟨_, rfl⟩⟩

theorem witness_CreateBuildsDeadGrid :
    State.reset.params.Legal ∧ State.reset.created = false ∧ State.reset.faulted = false ∧
    1 ≤ 1 ∧ 1 ≤ State.reset.params.maxWidth ∧ 1 ≤ 1023 ∧ 1023 ≤ State.reset.params.maxHeight := by decide

theorem witness_CreateFaults :
    stateS2.faulted = false ∧ stateS2.created = true ∧ State.reset.faulted = false ∧ State.reset.created = false ∧
    State.reset.params.maxWidth < 1024 ∧ State.reset.params.maxHeight < 1024 := by decide

theorem witness_CommandsBeforeCreateFault :
    State.reset.created = false ∧ State.reset.faulted = false ∧
    Instr.opcode (.rowGet ⟨.g, 0⟩ 0) ≠ .create ∧ Instr.opcode (.rowGet ⟨.g, 0⟩ 0) ≠ .readStatus ∧
    Instr.opcode (.rowGet ⟨.g, 0⟩ 0) ≠ .readFcmd := by decide

theorem witness_ClearKillsEveryCell : Running stateS2 ∧ 2 < stateS2.h := by decide

theorem witness_ClearTwiceEqualsOnce : Running (stateS2.setTime 9) := by decide

theorem witness_PutRandomReplacesEveryRow : Running stateS2 ∧ 2 < stateS2.h := by decide

theorem witness_ReadCommandsReturnTheRegisters : Running stateLimit := by decide

theorem witness_PutFixedSeedSetsFiveCells :
    (Running stateS2 ∧ StorageWf stateS2 ∧ 3 ≤ stateS2.w ∧ 3 ≤ stateS2.h ∧ 4 < stateS2.w ∧ 2 < stateS2.h) ∧
    (Running (State.reset.construct 2 3 .moore) ∧ StorageWf (State.reset.construct 2 3 .moore) ∧
      (State.reset.construct 2 3 .moore).w < 3) ∧
    Running (State.reset.construct 3 2 .moore) ∧ StorageWf (State.reset.construct 3 2 .moore) ∧
      (State.reset.construct 3 2 .moore).h < 3 := by decide +kernel

theorem witness_GetCellReturnsTheCell :
    (Running stateS2 ∧ 4 < stateS2.w ∧ 2 < stateS2.h ∧ stateS2.mem.read ⟨.g, 2⟩ = some ⟨5, 0b10000⟩) ∧
    stateS2.w ≤ 5 ∧ stateS2.h ≤ 3 := by decide +kernel

theorem witness_SetCellWritesOneCell :
    Running stateS2 ∧ StorageWf stateS2 ∧ (4 < stateS2.w ∧ 2 < stateS2.h) ∧ stateS2.w ≤ 5 ∧ stateS2.h ≤ 3 := by
  decide +kernel

theorem witness_StatusWordFields : FaultWf stateS2 ∧ stateS2.faulted = false ∧ FaultWf stateFaulted := by decide

theorem witness_AdvanceComputesNextGeneration :
    Inv stateS2 ∧ Running stateS2 ∧ stateS2.time.toNat < 2 ^ stateS2.params.timeWidth - 1 ∧
    4 < stateS2.w ∧ 2 < stateS2.h := by decide +kernel

theorem witness_AdvanceAtTimeLimitFaults :
    Running stateLimit ∧ stateLimit.time.toNat = 2 ^ stateLimit.params.timeWidth - 1 := by decide

theorem witness_TimeCountsTheAdvances :
    stateS2.params.Legal ∧ TimeWf stateS2 ∧ Running stateS2 ∧
    (∀ i ∈ [Instr.advance, .setCell 0 0 true, .advance], i.opcode ≠ .create ∧ i.opcode ≠ .clear) ∧
    ∃ t, runProgram [.advance, .setCell 0 0 true, .advance] stateS2 = .next t ∧ t.faulted = false :=
  ⟨by decide, by decide, by decide, by decide, _, rfl, rfl⟩

theorem witness_RowMicroprogramsComputeNextRow : Inv stateS2 ∧ Running stateS2 ∧ 2 < stateS2.h := by decide +kernel

theorem witness_ReferenceAdvanceIsAdvance : Inv stateS2 ∧ Inv stateLimit ∧ Inv State.reset :=
  ⟨by decide +kernel, by decide +kernel, by decide +kernel⟩

theorem witness_RowRealisationsGiveTheHostCommands :
    Inv stateS2 ∧ Running stateS2 ∧ 3 ≤ stateS2.w ∧ 3 ≤ stateS2.h ∧ 4 < stateS2.w ∧ 2 < stateS2.h := by decide +kernel

theorem witness_AddersSumEachPosition :
    Row.count ⟨5, 0b10110⟩ = 5 ∧ Row.count ⟨5, 0b01100⟩ = 5 ∧ Row.count ⟨5, 0b11111⟩ = 5 ∧ 4 < 5 := by decide

theorem witness_PlanesSumToTheNeighborCount :
    stateS2.mem.g.length = 3 ∧ (∀ r ∈ stateS2.mem.g, r.count = 5) ∧ 4 < 5 ∧ 2 < 3 := by decide

theorem witness_NetworksMeetTheCounter : Row.count ⟨5, 0b10110⟩ = 5 := rfl

theorem witness_CounterIgnoresPlaneOrder :
    [Row.zeros 3, ⟨3, 1⟩].Perm [⟨3, 1⟩, Row.zeros 3] := List.Perm.swap _ _ _

theorem witness_DetectorAppliesTheRule : 4 < Row.count ⟨5, 0b10110⟩ := by decide

/-- A slot of each space, the last one of it. -/
theorem witness_RowCreateMakesZeroRow :
    StorageWf stateS2 ∧ Running stateS2 ∧
    (¬SlotMissing stateS2 ⟨.t, 15⟩ ∧ 1 ≤ 1023 ∧ 1023 ≤ stateS2.params.maxWidth) ∧
    (¬SlotMissing stateS2 ⟨.n, 2⟩ ∧ 1 ≤ 5 ∧ 5 ≤ stateS2.params.maxWidth ∧ (Space.n ≠ .t → 5 = stateS2.w)) := by
  decide +kernel

theorem witness_RowRandomDrawsARow :
    StorageWf stateS2 ∧ Running stateS2 ∧
    (¬SlotMissing stateS2 ⟨.t, 15⟩ ∧ 1 ≤ 1 ∧ 1 ≤ stateS2.params.maxWidth) ∧
    (¬SlotMissing stateS2 ⟨.g, 2⟩ ∧ 1 ≤ 5 ∧ 5 ≤ stateS2.params.maxWidth ∧ (Space.g ≠ .t → 5 = stateS2.w)) := by
  decide +kernel

theorem witness_RowGetReadsOneBit :
    Running stateS2 ∧ ¬SlotMissing stateS2 ⟨.t, 5⟩ ∧
    stateS2.mem.read ⟨.t, 5⟩ = some ⟨70, 0x208000000000000000⟩ ∧ 69 < 70 := by decide +kernel

theorem witness_RowSetWritesOneBit :
    Running stateS2 ∧ ¬SlotMissing stateS2 ⟨.g, 2⟩ ∧ stateS2.mem.read ⟨.g, 2⟩ = some ⟨5, 0b10000⟩ ∧ 4 < 5 := by
  decide +kernel

theorem witness_RowClearKeepsTheCount :
    Running stateS2 ∧ ¬SlotMissing stateS2 ⟨.t, 2⟩ ∧ stateS2.mem.read ⟨.t, 2⟩ = some ⟨6, 0b111000⟩ := by decide +kernel

theorem witness_RowBitwiseCommandsCombine :
    Running stateS2 ∧ ¬SlotMissing stateS2 ⟨.g, 0⟩ ∧ ¬SlotMissing stateS2 ⟨.t, 1⟩ ∧
    stateS2.mem.read ⟨.g, 0⟩ = some ⟨5, 0b01110⟩ ∧ stateS2.mem.read ⟨.t, 1⟩ = some ⟨5, 0b01100⟩ := by decide +kernel

/-- To an invalid N slot, and to a scratch slot of another count. -/
theorem witness_RowNotAndCopyReplace :
    StorageWf stateS2 ∧ Running stateS2 ∧
    (¬SlotMissing stateS2 ⟨.n, 2⟩ ∧ ¬SlotMissing stateS2 ⟨.t, 0⟩ ∧ stateS2.mem.read ⟨.t, 0⟩ = some ⟨5, 0b10110⟩ ∧
      (Space.n ≠ .t → 5 = stateS2.w)) ∧
    ¬SlotMissing stateS2 ⟨.t, 15⟩ ∧ ¬SlotMissing stateS2 ⟨.t, 2⟩ ∧ stateS2.mem.read ⟨.t, 2⟩ = some ⟨6, 0b111000⟩ := by
  decide +kernel

/-- An amount above the count, the largest one. -/
theorem witness_RowShiftsMask :
    Running stateS2 ∧ ¬SlotMissing stateS2 ⟨.t, 0⟩ ∧ stateS2.mem.read ⟨.t, 0⟩ = some ⟨5, 0b10110⟩ ∧
    0 < 64 ∧ 64 ≤ stateS2.params.wordWidth := by decide +kernel

/-- The state right after the ROW_SET is one of the states the statement speaks of. -/
theorem witness_RowGetSeesRowSet :
    Running stateS2 ∧ ¬SlotMissing stateS2 ⟨.t, 1⟩ ∧ stateS2.mem.read ⟨.t, 1⟩ = some ⟨5, 0b01100⟩ ∧
    ∃ t, exec (.rowSet ⟨.t, 1⟩ 4 (.imm true)) stateS2 = .next t ∧ Running t ∧ ¬SlotMissing t ⟨.t, 1⟩ ∧
      0 < 5 ∧ 0 ≠ 4 :=
  ⟨by decide, by decide, by decide +kernel, _, rfl, by decide, by decide, by decide, by decide⟩

theorem witness_SameSlotIsReadBeforeTheWrite :
    StorageWf stateS2 ∧ Running stateS2 ∧ ¬SlotMissing stateS2 ⟨.g, 0⟩ ∧
    stateS2.mem.read ⟨.g, 0⟩ = some ⟨5, 0b01110⟩ := by decide +kernel

/-- A destination just past HEIGHT, a source just past NT. -/
theorem witness_MissingSlotsFault :
    Running stateS2 ∧ (∃ d ∈ namedSlots (.rowClear ⟨.g, 3⟩), SlotMissing stateS2 d) ∧
    ∃ d ∈ namedSlots (.rowAnd ⟨.t, 0⟩ ⟨.t, 16⟩), SlotMissing stateS2 d := by decide

theorem witness_InvalidSlotsFault :
    StorageWf stateS2 ∧ Running stateS2 ∧
    (∀ d ∈ namedSlots (.rowCopy ⟨.t, 3⟩ ⟨.n, 0⟩), ¬SlotMissing stateS2 d) ∧
    (∃ d ∈ readSlots (.rowCopy ⟨.t, 3⟩ ⟨.n, 0⟩), stateS2.mem.read d = none) ∧ 2 < stateS2.h := by decide +kernel

theorem witness_ImmediateRangesAreChecked :
    Running stateS2 ∧ ¬SlotMissing stateS2 ⟨.t, 0⟩ ∧ stateS2.mem.read ⟨.t, 0⟩ = some ⟨5, 0b10110⟩ ∧
    stateS2.params.maxWidth < 1024 ∧ 5 ≤ 5 ∧ stateS2.params.wordWidth < 65 ∧
    0 < 64 ∧ 64 ≤ stateS2.params.wordWidth := by decide +kernel

theorem witness_CountDisagreementsFault :
    (Running stateS2 ∧ ¬SlotMissing stateS2 ⟨.t, 0⟩ ∧ ¬SlotMissing stateS2 ⟨.t, 2⟩ ∧
      stateS2.mem.read ⟨.t, 0⟩ = some ⟨5, 0b10110⟩ ∧ stateS2.mem.read ⟨.t, 2⟩ = some ⟨6, 0b111000⟩) ∧
    ¬SlotMissing stateS2 ⟨.n, 0⟩ ∧ Space.n ≠ .t ∧ 1 ≤ 6 ∧ 6 ≤ stateS2.params.maxWidth ∧ 6 ≠ stateS2.w := by
  decide +kernel

theorem witness_PseudoCommandsHaveTheirEffect :
    Inv stateS2 ∧ Running stateS2 ∧
    ((Pseudo.rotl1 ⟨.n, 0⟩ ⟨.t, 0⟩ 5).admissible = true ∧ ¬SlotMissing stateS2 ⟨.n, 0⟩ ∧
      ¬SlotMissing stateS2 ⟨.t, 0⟩ ∧ stateS2.mem.read ⟨.t, 0⟩ = some ⟨5, 0b10110⟩ ∧ 5 = stateS2.w) ∧
    ((Pseudo.ha ⟨.t, 3⟩ ⟨.t, 4⟩ ⟨.t, 0⟩ ⟨.t, 1⟩).admissible = true ∧
      (∀ e ∈ [(⟨.t, 3⟩ : Slot), ⟨.t, 4⟩, ⟨.t, 0⟩, ⟨.t, 1⟩], ¬SlotMissing stateS2 e) ∧
      stateS2.mem.read ⟨.t, 1⟩ = some ⟨5, 0b01100⟩) ∧
    ((Pseudo.fa ⟨.t, 3⟩ ⟨.t, 4⟩ ⟨.t, 0⟩ ⟨.t, 1⟩ ⟨.g, 0⟩ ⟨.t, 6⟩).admissible = true ∧
      (∀ e ∈ [(⟨.t, 3⟩ : Slot), ⟨.t, 4⟩, ⟨.t, 0⟩, ⟨.t, 1⟩, ⟨.g, 0⟩, ⟨.t, 6⟩], ¬SlotMissing stateS2 e) ∧
      stateS2.mem.read ⟨.g, 0⟩ = some ⟨5, 0b01110⟩) :=
  ⟨by decide +kernel, by decide, by decide +kernel, by decide +kernel, by decide +kernel⟩

theorem witness_PatchedShiftIsRotation : 0 < 8 ∧ 8 ≤ min 64 (Row.count ⟨8, 0b10010111⟩) := by decide

theorem witness_WordsHoldTheBits :
    1 ≤ 64 ∧ 69 < Row.count ⟨70, 0x208000000000000000⟩ ∧ 6 < 64 ∧ 70 ≤ 1 * 64 + 6 := by decide

theorem witness_WordShiftsRealiseRowShifts : 1 ≤ 8 ∧ 0 < 8 ∧ 8 ≤ 8 ∧ 1 < wordCount 8 12 := by decide

/-- S2 and a state that differs from it in N, T and BREG. -/
theorem witness_HostCannotSeeScratchState :
    SameVisible stateS2
      { stateS2 with breg := true, mem := { stateS2.mem with n := [some ⟨5, 1⟩, none, none], t := List.replicate 16 none } } ∧
    stateS2.draws = 0 := by decide +kernel

end Sys2Proof.Tests
end

section
/-!
SUPPORT. The state's invariant (10_state sections 2 to 4): what each update of the state keeps of it, what a command and a
step can do to the state, and the obligations of 10_state that follow.
-/

namespace Sys2Proof.Machine

open Sys2Proof.Safety

variable {s t : State} {d src : Slot} {r v : Row} {g : List Row} {i : Instr}

/-! ### Rows and grids that fit the storage -/

/-- The slot's canonical form admits the row (R131): any legal count in T, WIDTH alone in G and N. -/
def RowFits (s : State) (d : Slot) (v : Row) : Prop :=
  (d.space = .t → 1 ≤ v.count ∧ v.count ≤ s.params.maxWidth) ∧ (d.space ≠ .t → v.count = s.w)

/-- The grid has HEIGHT rows of count WIDTH (R36). -/
def GridFits (s : State) (g : List Row) : Prop := g.length = s.h ∧ ∀ r ∈ g, r.count = s.w

/-- A row as long as the one the slot holds fits the slot. -/
theorem rowFits_of_read (hs : StorageWf s) (hr : s.mem.read d = some r) (hv : v.count = r.count) : RowFits s d v := by
  rw [RowFits, hv]
  exact Memory.wf_read _ _ _ _ _ hs d r hr

theorem rowFits_of_countFits (hl : 1 ≤ v.count ∧ v.count ≤ s.params.maxWidth) (hw : countFits s d v.count = true) :
    RowFits s d v := by
  refine ⟨fun _ => hl, fun hd => ?_⟩
  obtain ⟨sp, j⟩ := d
  cases sp with
  | g => simpa [countFits] using hw
  | n => simpa [countFits] using hw
  | t => exact absurd rfl hd

/-- A row that some slot holds has a legal count, whatever the slot (R131, R133). -/
theorem count_legal_of_read (hs : StorageWf s) (hw : 1 ≤ s.w ∧ s.w ≤ s.params.maxWidth)
    (hr : s.mem.read d = some r) : 1 ≤ r.count ∧ r.count ≤ s.params.maxWidth := by
  obtain ⟨hT, hGN⟩ := rowFits_of_read (v := r) hs hr rfl
  by_cases hd : d.space = .t
  · exact hT hd
  · rwa [hGN hd]

theorem gridFits_of_storageWf (hs : StorageWf s) : GridFits s s.mem.g := by
  obtain ⟨hl, hc, -⟩ := (Memory.wf_iff ..).1 hs
  exact ⟨hl, hc⟩

theorem gridFits_zeros : GridFits s (List.replicate s.h (Row.zeros s.w)) := by
  simp +contextual [GridFits, List.mem_replicate]

theorem gridFits_drawGrid : GridFits s s.drawGrid := by
  simp [GridFits, State.drawGrid]

theorem GridFits.setGridCell (hg : GridFits s g) (x y : Nat) (b : Bool) : GridFits s (setGridCell g s.w x y b) :=
  ⟨by simpa using hg.1, setGridCell_count g s.w x y b hg.2⟩

theorem GridFits.seedGrid (hg : GridFits s g) : GridFits s (seedGrid g s.w) :=
  ((((hg.setGridCell 1 0 true).setGridCell 2 0 true).setGridCell 0 1 true).setGridCell 1 1 true).setGridCell 1 2 true

theorem GridFits.nextRows (hg : GridFits s g) : GridFits s (nextRows s.nbh g s.w s.h) := by
  refine ⟨by simp [Machine.nextRows], fun r hr => ?_⟩
  obtain ⟨y, -, rfl⟩ := List.mem_map.1 hr
  exact (nextRow_count ..).trans (gridRow_count g s.w y hg.2)

/-! ### TIME below its limit -/

/-- Below `2^TW - 1` an increment of TIME does not wrap in the 64 bits that hold it (R35, log 12). -/
theorem time_add_one_toNat (hp : s.params.Legal) (hl : s.time.toNat < s.timeLimit) :
    (s.time + 1).toNat = s.time.toNat + 1 := by
  obtain ⟨-, -, -, -, -, -, -, -, htw⟩ := hp
  have hpow : 2 ^ s.params.timeWidth ≤ 2 ^ 64 := Nat.pow_le_pow_right (by decide) htw
  unfold State.timeLimit at hl
  have hlt : s.time.toNat + 1 < 2 ^ 64 := by omega
  simpa [BitVec.toNat_add] using hlt

/-! ### The invariant under each update of the state -/

/-- The fault codes are the numbers from 0x01 to 0x0A (R301). -/
theorem faultNumber_range (f : FaultCode) : 1 ≤ (faultNumber f).toNat ∧ (faultNumber f).toNat ≤ 0x0A := by
  cases f <;> decide

theorem inv_enterFault (h : Inv s) (f : FaultCode) : Inv (s.enterFault f) := by
  obtain ⟨hp, hm, hg, ht, -⟩ := h
  exact ⟨hp, hm, hg, ht, nofun, fun _ => faultNumber_range f⟩

theorem inv_writeSlot (h : Inv s) (hv : RowFits s d v) : Inv (s.writeSlot d v) := by
  obtain ⟨hp, hm, hg, ht, hf⟩ := h
  exact ⟨hp, Memory.write_wf _ _ _ _ _ hm d v hv.1 hv.2, hg, ht, hf⟩

theorem inv_setGrid (h : Inv s) (hfit : GridFits s g) : Inv (s.setMem (s.mem.setGrid g)) := by
  obtain ⟨hp, hm, hg, ht, hf⟩ := h
  exact ⟨hp, Memory.setGrid_wf _ _ _ _ _ hm g hfit.1 hfit.2, hg, ht, hf⟩

theorem inv_endRowUse (h : Inv s) : Inv s.endRowUse := by
  obtain ⟨hp, hm, hg, ht, hf⟩ := h
  exact ⟨hp, Memory.dropScratch_wf _ _ _ _ _ hm, hg, ht, hf⟩

theorem inv_setTime (h : Inv s) (hc : s.created = true) (τ : BitVec 64) (hτ : τ.toNat < 2 ^ s.params.timeWidth) :
    Inv (s.setTime τ) := by
  obtain ⟨hp, hm, ⟨hdim, -⟩, -, hf⟩ := h
  exact ⟨hp, hm, ⟨hdim, fun hn => absurd (hc.symm.trans hn) nofun⟩, hτ, hf⟩

/-- A legal dimension is a value of the 20 bits of WIDTH and HEIGHT (R11, R32, R33). -/
theorem dimension_toNat {n m : Nat} (hn : n ≤ m) (hm : m ≤ 2 ^ 20 - 1) : (BitVec.ofNat 20 n).toNat = n := by
  rw [BitVec.toNat_ofNat]
  exact Nat.mod_eq_of_lt (by omega)

theorem construct_w (hp : s.params.Legal) (w h : Nat) (nbh : Neighborhood) (hw : w ≤ s.params.maxWidth) :
    (s.construct w h nbh).w = w := by
  obtain ⟨-, -, hmax, -⟩ := hp
  exact dimension_toNat hw hmax

theorem construct_h (hp : s.params.Legal) (w h : Nat) (nbh : Neighborhood) (hh : h ≤ s.params.maxHeight) :
    (s.construct w h nbh).h = h := by
  obtain ⟨-, -, -, -, hmax, -⟩ := hp
  exact dimension_toNat hh hmax

theorem inv_construct (hi : Inv s) (w h : Nat) (nbh : Neighborhood) (hw : 1 ≤ w ∧ w ≤ s.params.maxWidth)
    (hh : 1 ≤ h ∧ h ≤ s.params.maxHeight) : Inv (s.construct w h nbh) := by
  obtain ⟨hp, -, -, -, hf⟩ := hi
  have hcw := construct_w hp w h nbh hw.2
  have hch := construct_h hp w h nbh hh.2
  refine ⟨hp, ?_, ⟨fun _ => ?_, nofun⟩, Nat.two_pow_pos _, hf⟩
  · rw [StorageWf, hcw, hch]
    exact Memory.fresh_wf w h _ _
  · rw [hcw, hch]
    exact ⟨hw.1, hw.2, hh⟩

theorem resetValues_applyReset : ResetValues s.applyReset :=
  ⟨rfl, rfl, rfl, rfl, rfl, rfl, rfl, rfl, rfl, rfl, rfl, rfl⟩

theorem inv_applyReset (hp : s.params.Legal) : Inv s.applyReset :=
  ⟨hp, reset_wf s.params, ⟨nofun, fun _ => ⟨rfl, rfl, rfl, rfl⟩⟩, Nat.two_pow_pos _, fun _ => ⟨rfl, rfl⟩, nofun⟩

theorem inv_stopped (h : Inv s) (hst : Stopped s t) : Inv t := by
  cases hst with
  | turnedAway _ ht => subst ht; exact h
  | fault _ f ht => subst ht; exact inv_enterFault h f

/-! ### What a command can do -/

/-- The values a host command that uses the row port can leave in TIME (R35). -/
inductive TimeWrite (i : Instr) (s : State) : BitVec 64 → Prop where
  | kept : TimeWrite i s s.time
  | cleared (hi : i = .clear) : TimeWrite i s 0
  | advanced (hi : i = .advance) (hl : s.time.toNat < s.timeLimit) : TimeWrite i s (s.time + 1)

/-- What a command can do to the state, up to the rows and values it writes: it stops, answers a value, builds a grid, writes
one row, reads a bit, or, using the row port as a host command, replaces the grid rows. -/
inductive Effect (i : Instr) (s t : State) : Prop where
  | stopped (h : Stopped s t)
  | answered (x : Word) (ht : t = s.setResponse ⟨true, x⟩)
  | constructed (w h : Nat) (nbh : Neighborhood) (hi : i = .create w h nbh) (hc : s.created = false)
      (hw : 1 ≤ w ∧ w ≤ s.params.maxWidth) (hh : 1 ≤ h ∧ h ≤ s.params.maxHeight)
      (ht : t = (s.construct w h nbh).setResponse ⟨true, 0⟩)
  | wroteRow (d : Slot) (v : Row) (k : Nat) (hv : Inv s → RowFits s d v)
      (ht : t = ((s.takeDraws k).writeSlot d v).setResponse ⟨true, 0⟩)
  | readBit (b : Bool) (ht : t = (s.setBreg b).setResponse ⟨true, valueOfBit b⟩)
  | usedRows (g : List Row) (τ : BitVec 64) (k : Nat) (x : Word) (hc : s.created = true)
      (hg : StorageWf s → GridFits s g) (hτ : TimeWrite i s τ)
      (ht : t = ((((s.setTime τ).setMem (s.mem.setGrid g)).takeDraws k).endRowUse).setResponse ⟨true, x⟩)

theorem createRow_effect (k : Nat) (h : createRow d v.count v s (s.takeDraws k) = .next t) : Effect i s t := by
  rcases createRow_cases _ _ _ _ h with h | ⟨-, -, -, hl, hw, ht⟩
  · exact .stopped h
  · exact .wroteRow d v k (fun _ => rowFits_of_countFits (by simpa [legalCount] using hl) hw) ht

theorem combineRows_effect {op : Row → Row → Row} (hop : ∀ a b, (op a b).count = a.count)
    (h : combineRows op d src s = .next t) : Effect i s t := by
  rcases combineRows_cases _ _ _ h with h | ⟨-, -, -, -, a, b, ha, -, -, ht⟩
  · exact .stopped h
  · exact .wroteRow d _ 0 (fun ⟨_, hm, _⟩ => rowFits_of_read hm ha (hop _ _)) ht

theorem replaceRow_effect {op : Row → Row} (hop : ∀ a, (op a).count = a.count)
    (h : replaceRow op d src s = .next t) : Effect i s t := by
  rcases replaceRow_cases _ _ _ h with h | ⟨-, hc, -, -, b, hb, hw, ht⟩
  · exact .stopped h
  · refine .wroteRow d _ 0 (fun ⟨_, hm, ⟨hdim, _⟩, _⟩ => ?_) ht
    obtain ⟨hw1, hw2, -⟩ := hdim hc
    have hlegal := count_legal_of_read hm ⟨hw1, hw2⟩ hb
    exact rowFits_of_countFits (by rwa [hop]) (by rwa [hop])

theorem shiftRow_effect {op : Row → Nat → Row} {k : Nat} (hop : ∀ a k, (op a k).count = a.count)
    (h : shiftRow op d k s = .next t) : Effect i s t := by
  rcases shiftRow_cases _ _ _ h with h | ⟨-, -, -, r, hr, -, ht⟩
  · exact .stopped h
  · exact .wroteRow d _ 0 (fun ⟨_, hm, _⟩ => rowFits_of_read hm hr (hop _ _)) ht

theorem readRegister_effect {x : Word} (h : whenCreated s (respond x s) = .next t) : Effect i s t := by
  rcases readRegister_cases _ h with h | ⟨-, -, ht⟩
  · exact .stopped h
  · exact .answered x ht

/-- Every command has one of the effects. -/
theorem exec_effect (h : exec i s = .next t) : Effect i s t := by
  cases i with
  | create w h' nbh =>
    rcases execCreate_cases _ _ _ h with h | ⟨-, hc, hw, hh, ht⟩
    · exact .stopped h
    · exact .constructed w h' nbh rfl hc hw hh ht
  | clear =>
    rcases execClear_cases h with h | ⟨-, hc, ht⟩
    · exact .stopped h
    · exact .usedRows _ 0 0 0 hc (fun _ => gridFits_zeros) (.cleared rfl) ht
  | putRandom =>
    rcases execPutRandom_cases h with h | ⟨-, hc, ht⟩
    · exact .stopped h
    · exact .usedRows s.drawGrid s.time s.h 0 hc (fun _ => gridFits_drawGrid) .kept ht
  | putFixedSeed =>
    rcases execPutFixedSeed_cases h with h | ⟨-, hc, -, ht⟩
    · exact .stopped h
    · exact .usedRows _ s.time 0 0 hc (fun hs => (gridFits_of_storageWf hs).seedGrid) .kept ht
  | advance =>
    rcases execAdvance_cases h with h | ⟨-, hc, hl, ht⟩
    · exact .stopped h
    · exact .usedRows _ _ 0 0 hc (fun hs => (gridFits_of_storageWf hs).nextRows) (.advanced rfl hl) ht
  | getCell x y =>
    rcases execGetCell_cases _ _ h with h | ⟨-, hc, -, ht⟩
    · exact .stopped h
    · exact .usedRows s.mem.g s.time 0 _ hc gridFits_of_storageWf .kept ht
  | setCell x y b =>
    rcases execSetCell_cases _ _ _ h with h | ⟨-, hc, -, ht⟩
    · exact .stopped h
    · exact .usedRows _ s.time 0 0 hc (fun hs => (gridFits_of_storageWf hs).setGridCell x y b) .kept ht
  | readGen => exact readRegister_effect h
  | readWidth => exact readRegister_effect h
  | readHeight => exact readRegister_effect h
  | readStatus => exact .answered _ ((respond_next _).1 h).symm
  | readFcmd => exact .answered _ ((respond_next _).1 h).symm
  | rowCreate d n => exact createRow_effect (v := Row.zeros n) 0 h
  | rowRandom d n => exact createRow_effect (v := s.draw 0 n) 1 h
  | rowGet d j =>
    rcases execRowGet_cases _ _ h with h | ⟨-, -, -, r, -, -, ht⟩
    · exact .stopped h
    · exact .readBit _ ht
  | rowSet d j b =>
    rcases execRowSet_cases _ _ _ h with h | ⟨-, -, -, r, hr, -, ht⟩
    · exact .stopped h
    · exact .wroteRow d (r.setBit j (bitValue s b)) 0 (fun ⟨_, hm, _⟩ => rowFits_of_read hm hr rfl) ht
  | rowClear d =>
    rcases execRowClear_cases _ h with h | ⟨-, -, -, r, hr, ht⟩
    · exact .stopped h
    · exact .wroteRow d (Row.zeros r.count) 0 (fun ⟨_, hm, _⟩ => rowFits_of_read hm hr rfl) ht
  | rowAnd d src => exact combineRows_effect Row.and_count h
  | rowOr d src => exact combineRows_effect Row.or_count h
  | rowXor d src => exact combineRows_effect Row.xor_count h
  | rowNot d src => exact replaceRow_effect Row.not_count h
  | rowCopy d src => exact replaceRow_effect (fun _ => rfl) h
  | rowShl d k => exact shiftRow_effect Row.shl_count h
  | rowShr d k => exact shiftRow_effect Row.shr_count h

/-! ### What every command keeps -/

theorem Stopped.params_eq (hst : Stopped s t) : t.params = s.params := by
  cases hst with
  | turnedAway _ ht => simp [ht]
  | fault _ f ht => simp [ht]

theorem Stopped.time_eq (hst : Stopped s t) : t.time = s.time := by
  cases hst with
  | turnedAway _ ht => simp [ht]
  | fault _ f ht => simp [ht]

/-- A command that stops leaves the block in the fault state (R304, R305). -/
theorem Stopped.faulted_eq (hst : Stopped s t) : t.faulted = true := by
  cases hst with
  | turnedAway hf ht => simp [ht, hf]
  | fault _ f ht => simp [ht]

/-- No command changes the parameters (log 1). -/
theorem Effect.params_eq (he : Effect i s t) : t.params = s.params := by
  cases he with
  | stopped h => exact h.params_eq
  | answered x ht => simp [ht]
  | constructed w h nbh hi hc hw hh ht => simp [ht]
  | wroteRow d v k hv ht => simp [ht]
  | readBit b ht => simp [ht]
  | usedRows g τ k x hc hg hτ ht => simp [ht]

/-- No value a command leaves in TIME exceeds its `TW` bits (R35). -/
theorem TimeWrite.toNat_lt {τ : BitVec 64} (hτ : TimeWrite i s τ) (hp : s.params.Legal) (ht : TimeWf s) :
    τ.toNat < 2 ^ s.params.timeWidth := by
  cases hτ with
  | kept => exact ht
  | cleared _ => exact Nat.two_pow_pos _
  | advanced _ hl =>
    rw [time_add_one_toNat hp hl]
    unfold State.timeLimit at hl
    omega

theorem Effect.timeWf (he : Effect i s t) (hp : s.params.Legal) (htime : TimeWf s) : TimeWf t := by
  rw [TimeWf, he.params_eq]
  cases he with
  | stopped h => rwa [h.time_eq]
  | answered x ht => simpa [ht] using htime
  | constructed w h nbh hi hc hw hh ht => simp [ht]
  | wroteRow d v k hv ht => simpa [ht] using htime
  | readBit b ht => simpa [ht] using htime
  | usedRows g τ k x hc hg hτ ht => simpa [ht] using hτ.toNat_lt hp htime

/-- No command but CREATE, CLEAR and ADVANCE writes TIME (R35). -/
theorem Effect.time_eq (he : Effect i s t) (hcreate : i.opcode ≠ .create) (hclear : i.opcode ≠ .clear)
    (hadvance : i.opcode ≠ .advance) : t.time = s.time := by
  cases he with
  | stopped h => exact h.time_eq
  | answered x ht => simp [ht]
  | constructed w h nbh hi hc hw hh ht => exact absurd (congrArg Instr.opcode hi) hcreate
  | wroteRow d v k hv ht => simp [ht]
  | readBit b ht => simp [ht]
  | usedRows g τ k x hc hg hτ ht =>
    cases hτ with
    | kept => simp [ht]
    | cleared hi => exact absurd (congrArg Instr.opcode hi) hclear
    | advanced hi _ => exact absurd (congrArg Instr.opcode hi) hadvance

theorem Effect.inv (he : Effect i s t) (hinv : Inv s) : Inv t := by
  cases he with
  | stopped h => exact inv_stopped hinv h
  | answered x ht => subst ht; exact hinv
  | constructed w h nbh hi hc hw hh ht => subst ht; exact inv_construct hinv w h nbh hw hh
  | wroteRow d v k hv ht => subst ht; exact inv_writeSlot (s := s.takeDraws k) hinv (hv hinv)
  | readBit b ht => subst ht; exact hinv
  | usedRows g τ k x hc hg hτ ht =>
    obtain ⟨hp, hm, -, htime, -⟩ := id hinv
    have hset : Inv (s.setTime τ) := inv_setTime hinv hc τ (hτ.toNat_lt hp htime)
    have hgrid : Inv ((s.setTime τ).setMem (s.mem.setGrid g)) := inv_setGrid hset (hg hm)
    subst ht
    exact inv_endRowUse (s := ((s.setTime τ).setMem (s.mem.setGrid g)).takeDraws k) hgrid

/-- The grid is the same in existence, dimensions, neighborhood and number of rows (R31 to R34, R36). -/
def SameShape (s t : State) : Prop :=
  t.created = s.created ∧ t.width = s.width ∧ t.height = s.height ∧ t.nbh = s.nbh ∧ t.mem.g.length = s.mem.g.length

theorem Memory.write_g_length (m : Memory) (d : Slot) (v : Row) : (m.write d v).g.length = m.g.length := by
  obtain ⟨sp, j⟩ := d
  cases sp with
  | g => exact List.length_set
  | n => rfl
  | t => rfl

theorem Stopped.sameShape (hst : Stopped s t) : SameShape s t := by
  cases hst with
  | turnedAway _ ht => simp [SameShape, ht]
  | fault _ f ht => simp [SameShape, ht]

theorem Effect.sameShape (he : Effect i s t) (hm : StorageWf s) (hcreated : s.created = true) : SameShape s t := by
  cases he with
  | stopped h => exact h.sameShape
  | answered x ht => simp [SameShape, ht]
  | constructed w h nbh hi hc hw hh ht => exact absurd (hcreated.symm.trans hc) nofun
  | wroteRow d v k hv ht => simp [SameShape, ht, Memory.write_g_length]
  | readBit b ht => simp [SameShape, ht]
  | usedRows g τ k x hc hg hτ ht =>
    have hlen : g.length = s.mem.g.length := (hg hm).1.trans (gridFits_of_storageWf hm).1.symm
    simp [SameShape, ht, hlen]

/-! ### What a step can do -/

/-- The state that has accepted a word: the event is taken and the latched host word is `w` (R304; log 4). -/
def State.accepting (s : State) (rest : List PortEvent) (w : Word) : State := { s with inbox := rest, hostWord := w }

/-- A word accepted at a port has the effect of some command: of the one it decodes to, or that of stopping. -/
theorem runAccepted_effect {a : Accepted} (h : runAccepted a = .next t) : ∃ i, Effect i a.state t := by
  rcases runAccepted_cases a h with ⟨i, -, hx⟩ | hst
  · exact ⟨i, exec_effect hx⟩
  · exact ⟨.clear, .stopped hst⟩

/-- A step waits, takes a reset, or has a command's effect on the state that has accepted the word. -/
theorem step_effect (h : step s = .next t) :
    t = s ∨ (resetNext s = true ∧ ∃ rest, t = { s with inbox := rest }.applyReset) ∨
      ∃ i rest w, Effect i (s.accepting rest w) t := by
  rcases step_cases h with ⟨-, ht⟩ | ⟨rest, hreset, ht⟩ | ⟨w, rest, -, hrun⟩ | ⟨w, rest, -, hrun⟩
  · exact .inl ht
  · refine .inr (.inl ⟨?_, rest, ht⟩)
    rcases hreset with hi | ⟨w, hi⟩ <;> simp [resetNext, hi]
  · obtain ⟨i, he⟩ := runAccepted_effect hrun
    exact .inr (.inr ⟨i, rest, w, he⟩)
  · obtain ⟨i, he⟩ := runAccepted_effect hrun
    exact .inr (.inr ⟨i, rest, s.hostWord, he⟩)

/-! ### The obligations on the invariant, the grid and TIME -/

/-- Settles O4, by the effects of a step. -/
theorem everyStepKeepsInvariant : Obligations.EveryStepKeepsInvariant := by
  intro s t hinv h
  rcases step_effect h with rfl | ⟨-, rest, rfl⟩ | ⟨i, rest, w, he⟩
  · exact ⟨hinv, rfl⟩
  · obtain ⟨hp, -⟩ := hinv
    exact ⟨inv_applyReset hp, rfl⟩
  · exact ⟨he.inv hinv, he.params_eq⟩

/-- Settles O16, by the effects of a step. -/
theorem onlyResetEndsTheGrid : Obligations.OnlyResetEndsTheGrid := by
  intro s t hm h hreset hc
  rw [← hc]
  rcases step_effect h with rfl | ⟨hr, -⟩ | ⟨i, rest, w, he⟩
  · exact ⟨rfl, rfl, rfl, rfl, rfl⟩
  · exact absurd (hr.symm.trans hreset) nofun
  · exact he.sameShape hm hc

/-- TIME after CREATE: 0 where it succeeds (R35). -/
theorem execCreate_time {w h : Nat} {nbh : Neighborhood} (hx : execCreate w h nbh s = .next t) :
    if t.faulted = false then t.time = 0 else t.time = s.time := by
  rcases execCreate_cases _ _ _ hx with hst | ⟨hf, -, -, -, ht⟩
  · simp [hst.faulted_eq, hst.time_eq]
  · simp [ht, hf]

/-- TIME after CLEAR: 0 where it succeeds (R35). -/
theorem execClear_time (hx : execClear s = .next t) :
    if t.faulted = false then t.time = 0 else t.time = s.time := by
  rcases execClear_cases hx with hst | ⟨hf, -, ht⟩
  · simp [hst.faulted_eq, hst.time_eq]
  · simp [ht, hf]

/-- When ADVANCE runs (R266). -/
theorem execAdvance_done (hf : s.faulted = false) (hc : s.created = true) (hl : s.time.toNat < s.timeLimit) :
    execAdvance s = .next ((s.commit (nextRows s.nbh s.mem.g s.w s.h)).setResponse ⟨true, 0⟩) := by
  simp only [execAdvance, whenCreated_pos _ hf hc, require_pos _ _ _ hl, respond]

/-- When ADVANCE faults on a grid (R271). -/
theorem execAdvance_overflow (hf : s.faulted = false) (hc : s.created = true) (hl : ¬s.time.toNat < s.timeLimit) :
    execAdvance s = .next (s.enterFault .timeOverflow) := by
  simp only [execAdvance, whenCreated_pos _ hf hc, require_neg _ _ _ hl]

/-- An ADVANCE that faults on a grid does so at the limit of TIME (R35, R271). -/
theorem execAdvance_faulted (htime : TimeWf s) (hf : s.faulted = false) (hc : s.created = true)
    (hx : execAdvance s = .next t) (htf : t.faulted = true) :
    s.time.toNat = 2 ^ s.params.timeWidth - 1 ∧ t.fcode = faultNumber .timeOverflow := by
  by_cases hl : s.time.toNat < s.timeLimit
  · have ht := Host.Outcome.next.inj (hx.symm.trans (execAdvance_done hf hc hl))
    simp [ht, hf] at htf
  · have ht := Host.Outcome.next.inj (hx.symm.trans (execAdvance_overflow hf hc hl))
    unfold State.timeLimit at hl
    exact ⟨by omega, by simp [ht]⟩

/-- TIME after ADVANCE: one more where it succeeds, and no wrap at the limit (R35). -/
theorem execAdvance_time (hp : s.params.Legal) (htime : TimeWf s) (hf : s.faulted = false)
    (hx : execAdvance s = .next t) :
    if t.faulted = false then t.time.toNat = s.time.toNat + 1
    else t.time = s.time ∧
      (s.created = true → s.time.toNat = 2 ^ s.params.timeWidth - 1 ∧ t.fcode = faultNumber .timeOverflow) := by
  rcases execAdvance_cases hx with hst | ⟨-, -, hl, ht⟩
  · rw [if_neg (by simp [hst.faulted_eq])]
    exact ⟨hst.time_eq, fun hc => execAdvance_faulted htime hf hc hx hst.faulted_eq⟩
  · rw [if_pos (by simp [ht, hf]), ht]
    exact time_add_one_toNat hp hl

/-- Settles O17, command by command. -/
theorem timeIsWrittenByThreeCommands : Obligations.TimeIsWrittenByThreeCommands := by
  intro i s t hp htime hf hx
  have he : Effect i s t := exec_effect hx
  refine ⟨he.timeWf hp htime, ?_⟩
  cases i with
  | create w h nbh => exact execCreate_time hx
  | clear => exact execClear_time hx
  | advance => exact execAdvance_time hp htime hf hx
  | _ => exact he.time_eq nofun nofun nofun

/-- Settles O1: the reset input leaves the values of R49, and `State.reset` is what it makes of itself. -/
theorem resetStateIsEmptyMachine : Obligations.ResetStateIsEmptyMachine :=
  resetValues_applyReset (s := State.reset)

/-- Settles O3, as O1. -/
theorem resetSatisfiesInvariant : Obligations.ResetSatisfiesInvariant :=
  inv_applyReset (s := State.reset) (by decide)

/-! ### CREATE and STATUS -/

/-- When CREATE runs (R180). -/
theorem execCreate_done (w h : Nat) (nbh : Neighborhood) (hf : s.faulted = false) (hc : s.created = false)
    (hw : 1 ≤ w ∧ w ≤ s.params.maxWidth) (hh : 1 ≤ h ∧ h ≤ s.params.maxHeight) :
    execCreate w h nbh s = .next ((s.construct w h nbh).setResponse ⟨true, 0⟩) := by
  simp only [execCreate, whenRunning_pos _ hf, require_pos _ _ _ hc, require_pos _ _ _ hw, require_pos _ _ _ hh, respond]

/-- A fresh grid reads as zero rows up to its height, and every scratch slot is invalid (R50). -/
theorem Memory.fresh_read (w h nt : Nat) (e : Slot) :
    Memory.read ⟨List.replicate h (Row.zeros w), List.replicate h none, List.replicate nt none⟩ e =
      if e.space = .g ∧ e.index < h then some (Row.zeros w) else none := by
  obtain ⟨sp, j⟩ := e
  cases sp with
  | g => simp [Memory.read, List.getElem?_replicate]
  | n => simp [Memory.read, List.getElem?_replicate, apply_ite Option.join]
  | t => simp [Memory.read, List.getElem?_replicate, apply_ite Option.join]

/-- Settles O18: the fields of the constructed state. -/
theorem createBuildsDeadGrid : Obligations.CreateBuildsDeadGrid := by
  intro s w h nbh hp hc hf hw1 hw2 hh1 hh2
  refine ⟨_, execCreate_done w h nbh hf hc ⟨hw1, hw2⟩ ⟨hh1, hh2⟩, rfl, construct_w hp w h nbh hw2,
    construct_h hp w h nbh hh2, rfl, rfl, fun y => ?_, fun y => ?_, fun y => ?_,
    rfl, rfl, rfl, rfl, rfl, rfl, rfl, rfl, rfl⟩
  all_goals simp [Memory.fresh_read]

/-- The STATUS word bit by bit (R41). -/
theorem statusWord_getLsbD (s : State) (j : Nat) :
    (statusWord s).getLsbD j =
      if j = 0 then s.created else if j = 1 then statusNbh s else if j = 2 then s.faulted
      else decide (8 ≤ j) && s.fcode.getLsbD (j - 8) := by
  change BitVec.getLsbD (w := 48 + 8 + 5 + 1 + 1 + 1) _ j = _
  simp only [statusWord, BitVec.getLsbD_append, BitVec.getLsbD_ofBool, BitVec.getLsbD_zero]
  match j with
  | 0 | 1 | 2 => rfl
  | j + 3 =>
    by_cases h5 : j < 5
    · simp [h5]
    · have h8 : 8 ≤ j + 3 := by omega
      have hfield : s.fcode.getLsbD (j - 5) = true → j - 5 < 8 := BitVec.lt_of_getLsbD
      simpa [h5, h8] using hfield

/-- Above bit 2 the STATUS word holds FCODE in bits 15:8 and nothing else (R41). -/
theorem statusWord_getLsbD_of_three_le (s : State) (j : Nat) (hj : 3 ≤ j) :
    (statusWord s).getLsbD j = (decide (8 ≤ j) && s.fcode.getLsbD (j - 8)) := by
  rw [statusWord_getLsbD, if_neg (by omega), if_neg (by omega), if_neg (by omega)]

theorem statusWord_fcode (s : State) : (statusWord s).extractLsb' 8 8 = s.fcode := by
  refine BitVec.eq_of_getLsbD_eq fun j hj => ?_
  rw [BitVec.getLsbD_extractLsb', statusWord_getLsbD_of_three_le s (8 + j) (by omega)]
  simp [hj]

theorem statusNbh_eq (s : State) :
    statusNbh s = if s.created = false then false else decide (s.nbh = .moore) := by
  cases hc : s.created with
  | false => simp [statusNbh, hc]
  | true => simp [statusNbh, hc, beq_eq_decide]

/-- Settles O28, by the bits of the STATUS word. -/
theorem statusWordFields : Obligations.StatusWordFields := by
  intro s ⟨hclear, _⟩
  refine ⟨statusWord s, rfl, statusWord_getLsbD s 0, (statusWord_getLsbD s 1).trans (statusNbh_eq s),
    statusWord_getLsbD s 2, fun j h3 h7 => ?_, statusWord_fcode s, fun hf => ?_, fun j hj => ?_⟩
  · rw [statusWord_getLsbD_of_three_le s j h3]
    simp [show ¬8 ≤ j by omega]
  · rw [statusWord_fcode, (hclear hf).1]
    rfl
  · rw [statusWord_getLsbD_of_three_le s j (by omega), BitVec.getLsbD_of_ge s.fcode (j - 8) (by omega), Bool.and_false]

end Sys2Proof.Machine
end

section
/-!
SUPPORT. What the host cannot see (10_state R47, R51): the host commands answer alike in two states that differ in N, T and
BREG only, rule by rule for the updates and checks they are made of.
-/

namespace Sys2Proof.Machine

open Sys2Proof.Safety

variable {s t : State} {k k' : Result}

/-! ### Decoding keeps to the port -/

/-- The fields of a word make a command of the opcode they are read for (R103). -/
theorem opcode_of_fieldsOf {op : Opcode} {w : Word} {i : Instr} (h : fieldsOf op w = .ok i) : i.opcode = op := by
  cases op with
  | create | clear | putRandom | putFixedSeed | advance | getCell | setCell
  | readGen | readWidth | readHeight | readStatus | readFcmd =>
    cases h
    rfl
  | rowClear | rowCreate | rowRandom | rowGet | rowShl | rowShr | rowAnd | rowOr | rowXor | rowNot | rowCopy =>
    simp only [fieldsOf] at h
    split at h <;> cases h
    rfl
  | rowSet =>
    simp only [fieldsOf] at h
    split at h
    · cases h
    · split at h <;> cases h
      rfl

/-- A word decodes to a command of the port it arrives at (R102). -/
theorem port_of_decode {p : Port} {w : Word} {i : Instr} (h : decode p w = .ok i) : i.opcode.port = p := by
  unfold decode at h
  split at h
  · cases h
  · rename_i op _
    split at h
    · rename_i hport
      split at h
      · rw [opcode_of_fieldsOf h, hport]
      · cases h
    · cases p <;> cases h

/-! ### States alike for the host -/

/-- The state with other contents of N, T and BREG. -/
def State.withScratch (s : State) (n c : List (Option Row)) (b : Bool) : State :=
  { s with mem := ⟨s.mem.g, n, c⟩, breg := b }

/-- Two states that differ in N, T and BREG only and take the same free values from now on (R47; log 5). -/
def Alike (s t : State) : Prop := SameVisible s t ∧ s.draws = t.draws

theorem alike_withScratch (s : State) (n c : List (Option Row)) (b : Bool) : Alike s (s.withScratch n c b) :=
  ⟨⟨rfl, rfl, rfl, rfl, rfl, rfl, rfl, rfl, rfl, rfl, rfl, rfl, rfl⟩, rfl⟩

/-- States alike differ in nothing but the contents of N, T and BREG. -/
theorem Alike.exists_withScratch (h : Alike s t) : ∃ n c b, t = s.withScratch n c b := by
  obtain ⟨⟨hp, hc, hw, hh, hn, hτ, hg, hf, hfc, hfw, hhw, hi, hr⟩, hd⟩ := h
  refine ⟨t.mem.n, t.mem.t, t.breg, ?_⟩
  rw [State.withScratch, ← hp, ← hc, ← hw, ← hh, ← hn, ← hτ, ← hg, ← hf, ← hfc, ← hfw, ← hhw, ← hi, ← hr, hd]

theorem Alike.faulted_eq (h : Alike s t) : t.faulted = s.faulted := by
  obtain ⟨n, c, b, rfl⟩ := h.exists_withScratch
  rfl

theorem Alike.response_eq (h : Alike s t) : t.response = s.response := by
  obtain ⟨n, c, b, rfl⟩ := h.exists_withScratch
  rfl

theorem Alike.setResponse (h : Alike s t) (x : Response) : Alike (s.setResponse x) (t.setResponse x) := by
  obtain ⟨n, c, b, rfl⟩ := h.exists_withScratch
  exact alike_withScratch (s.setResponse x) n c b

theorem Alike.turnedAway (h : Alike s t) : Alike s.turnedAway t.turnedAway := by
  obtain ⟨n, c, b, rfl⟩ := h.exists_withScratch
  exact alike_withScratch s.turnedAway n c b

theorem Alike.enterFault (h : Alike s t) (f : FaultCode) : Alike (s.enterFault f) (t.enterFault f) := by
  obtain ⟨n, c, b, rfl⟩ := h.exists_withScratch
  exact alike_withScratch (s.enterFault f) n c b

/-- The host's view of a state is the same for states alike (R51). -/
theorem Alike.observe_eq (h : Alike s t) : observe s = observe t := by
  obtain ⟨n, c, b, rfl⟩ := h.exists_withScratch
  rfl

/-! ### Outcomes alike -/

/-- Two outcomes alike: next states that are alike, so with the same response. -/
def AlikeResults (r r' : Result) : Prop := ∃ t t', r = .next t ∧ r' = .next t' ∧ Alike t t'

theorem alike_respond (h : Alike s t) (x : Word) : AlikeResults (respond x s) (respond x t) :=
  ⟨_, _, rfl, rfl, h.setResponse _⟩

theorem alike_require (c : Prop) [Decidable c] (f : FaultCode) (h : Alike s t) (hk : AlikeResults k k') :
    AlikeResults (require c f s k) (require c f t k') := by
  by_cases hc : c
  · rwa [require_pos c f k hc, require_pos c f k' hc]
  · rw [require_neg c f k hc, require_neg c f k' hc]
    exact ⟨_, _, rfl, rfl, h.enterFault f⟩

theorem alike_whenRunning (h : Alike s t) (hk : AlikeResults k k') :
    AlikeResults (whenRunning s k) (whenRunning t k') := by
  cases hf : s.faulted with
  | false => rwa [whenRunning_pos k hf, whenRunning_pos k' (h.faulted_eq.trans hf)]
  | true =>
    rw [whenRunning_neg k hf, whenRunning_neg k' (h.faulted_eq.trans hf)]
    exact ⟨_, _, rfl, rfl, h.turnedAway⟩

theorem alike_whenCreated (h : Alike s t) (hk : AlikeResults k k') :
    AlikeResults (whenCreated s k) (whenCreated t k') := by
  refine alike_whenRunning h ?_
  obtain ⟨n, c, b, rfl⟩ := h.exists_withScratch
  exact alike_require (s.created = true) .notCreated h hk

theorem alike_decodeFault (h : Alike s t) (f : FaultCode) : AlikeResults (decodeFault f s) (decodeFault f t) :=
  alike_whenRunning h ⟨_, _, rfl, rfl, h.enterFault f⟩

/-! ### The host commands -/

/-- The end of a host command that uses the row port drops the scratch contents by which its states differ (R355). -/
theorem alike_endRowUse (s : State) (n c : List (Option Row)) (b : Bool) :
    Alike s.endRowUse (s.withScratch n c b).endRowUse :=
  alike_withScratch s.endRowUse (invalidated n) (invalidated c) s.endRowUse.breg

theorem alike_construct (s : State) (n c : List (Option Row)) (b : Bool) (w h : Nat) (nbh : Neighborhood) :
    Alike (s.construct w h nbh) ((s.withScratch n c b).construct w h nbh) :=
  alike_withScratch (s.construct w h nbh) _ _ b

/-- A host command answers alike from states alike: none of its checks, values or updates reads N, T or BREG (R47). -/
theorem exec_alike {i : Instr} (hport : i.opcode.port = .host) (h : Alike s t) : AlikeResults (exec i s) (exec i t) := by
  obtain ⟨n, c, b, rfl⟩ := h.exists_withScratch
  cases i with
  | create w h' nbh =>
    exact alike_whenRunning h <| alike_require (s.created = false) _ h <|
      alike_require (1 ≤ w ∧ w ≤ s.params.maxWidth) _ h <| alike_require (1 ≤ h' ∧ h' ≤ s.params.maxHeight) _ h <|
      alike_respond (alike_construct s n c b w h' nbh) 0
  | clear =>
    exact alike_whenCreated h <|
      alike_respond (alike_endRowUse ((s.setTime 0).setMem (s.mem.setGrid (List.replicate s.h (Row.zeros s.w)))) n c b) 0
  | putRandom =>
    exact alike_whenCreated h <|
      alike_respond (alike_endRowUse ((s.setMem (s.mem.setGrid s.drawGrid)).takeDraws s.h) n c b) 0
  | putFixedSeed =>
    exact alike_whenCreated h <| alike_require (3 ≤ s.w ∧ 3 ≤ s.h) _ h <|
      alike_respond (alike_endRowUse (s.setMem (s.mem.setGrid (seedGrid s.mem.g s.w))) n c b) 0
  | advance =>
    exact alike_whenCreated h <| alike_require (s.time.toNat < s.timeLimit) _ h <|
      alike_respond (alike_endRowUse
        ((s.setTime (s.time + 1)).setMem (s.mem.setGrid (nextRows s.nbh s.mem.g s.w s.h))) n c b) 0
  | getCell x y =>
    exact alike_whenCreated h <| alike_require (cellExists s x y = true) _ h <|
      alike_respond (alike_endRowUse s n c b) (valueOfBit (gridCell s.mem.g s.w x y))
  | setCell x y v =>
    exact alike_whenCreated h <| alike_require (cellExists s x y = true) _ h <|
      alike_respond (alike_endRowUse (s.setMem (s.mem.setGrid (setGridCell s.mem.g s.w x y v))) n c b) 0
  | readGen => exact alike_whenCreated h (alike_respond h s.time)
  | readWidth => exact alike_whenCreated h (alike_respond h (s.width.setWidth 64))
  | readHeight => exact alike_whenCreated h (alike_respond h (s.height.setWidth 64))
  | readStatus => exact alike_respond h (statusWord s)
  | readFcmd => exact alike_respond h s.fcmd
  | _ => exact absurd hport nofun

/-! ### Runs of host words -/

/-- One host word sent to an idle block is accepted and run (R352). -/
theorem hostCommand_eq (w : Word) (s : State) :
    hostCommand w s = runAccepted ⟨.host, w, { s with inbox := [], hostWord := w }⟩ := rfl

/-- A host word runs alike from states alike, whatever it decodes to. -/
theorem runAccepted_alike (w : Word) (h : Alike s t) :
    AlikeResults (runAccepted ⟨.host, w, s⟩) (runAccepted ⟨.host, w, t⟩) := by
  unfold runAccepted
  cases hd : decode .host w with
  | ok i => simpa only [hd] using exec_alike (port_of_decode hd) h
  | error f => simpa only [hd] using alike_decodeFault h f

theorem hostCommand_alike (w : Word) (h : Alike s t) : AlikeResults (hostCommand w s) (hostCommand w t) := by
  obtain ⟨n, c, b, rfl⟩ := h.exists_withScratch
  exact runAccepted_alike w (alike_withScratch { s with inbox := [], hostWord := w } n c b)

/-- Runs of the same host words from states alike end in states alike, with the same responses (R348). -/
theorem hostRun_alike (ws : List Word) (h : Alike s t) :
    ∃ s' t' rs, hostRun ws s = some (s', rs) ∧ hostRun ws t = some (t', rs) ∧ Alike s' t' := by
  induction ws generalizing s t with
  | nil => exact ⟨s, t, [], rfl, rfl, h⟩
  | cons w ws ih =>
    obtain ⟨s₁, t₁, hs, ht, h₁⟩ := hostCommand_alike w h
    obtain ⟨s', t', rs, hs', ht', h'⟩ := ih h₁
    refine ⟨s', t', s₁.response :: rs, ?_, ?_, h'⟩
    · simp [hostRun, hs, hs']
    · simp [hostRun, ht, ht', h₁.response_eq]

/-- Settles O59, by induction on the host words. -/
theorem hostCannotSeeScratchState : Obligations.HostCannotSeeScratchState := by
  intro ws s₁ s₂ hvis hdraws
  obtain ⟨t₁, t₂, rs, h₁, h₂, halike⟩ := hostRun_alike ws ⟨hvis, hdraws⟩
  exact ⟨t₁, t₂, rs, h₁, h₂, halike.1, halike.2, halike.observe_eq⟩

end Sys2Proof.Machine
end

section
/-!
SUPPORT. The word view of a row (20_memory R63): the bit at each position of a word, the value of a word, the number of words,
and the obligation that follows.
-/

namespace Sys2Proof.Machine

/-! ### Bits of a word -/

/-- Position `p` of word `j` shows bit `j * W + p` of the row (R63). -/
theorem Row.word_getLsbD (w : Nat) (r : Row) (j p : Nat) :
    (r.word w j).getLsbD p = (decide (p < w) && r.bit (j * w + p)) := by
  rw [Row.word, BitVec.getLsbD_extractLsb', Row.bit]

/-- A row's bit stands in word `i / W` at position `i % W` (R63). -/
theorem Row.word_getLsbD_div_mod {w : Nat} (hw : 0 < w) (r : Row) (i : Nat) :
    (r.word w (i / w)).getLsbD (i % w) = r.bit i := by
  rw [Row.word_getLsbD, Nat.div_add_mod', decide_eq_true (Nat.mod_lt i hw), Bool.true_and]

/-- The padding past the row's count reads as 0 (R63). -/
theorem Row.word_padding (w : Nat) (r : Row) (j p : Nat) (h : r.count ≤ j * w + p) :
    (r.word w j).getLsbD p = false := by
  rw [Row.word_getLsbD, Row.bit_of_le r _ h, Bool.and_false]

/-! ### The value of a word -/

/-- The low `w` bits of a number sum to its remainder, by induction on `w`: each further bit adds its power of two. -/
theorem mod_two_pow_eq_sum_testBit (n w : Nat) :
    n % 2 ^ w = ((List.range w).map fun p => (n.testBit p).toNat * 2 ^ p).sum := by
  induction w with
  | zero => simp [Nat.mod_one]
  | succ w ih => rw [List.sum_range_succ, ← ih, Nat.mod_pow_succ, Nat.toNat_testBit, Nat.mul_comm (2 ^ w)]

/-- A bit vector's value is the sum of its bits' powers of two. -/
theorem bitVec_toNat_eq_sum {w : Nat} (x : BitVec w) :
    x.toNat = ((List.range w).map fun p => (x.getLsbD p).toNat * 2 ^ p).sum := by
  have hmod := mod_two_pow_eq_sum_testBit x.toNat w
  rwa [Nat.mod_eq_of_lt x.isLt] at hmod

/-- The value of a word sums the row's bits that stand in it: the padding adds nothing (R63). -/
theorem Row.word_toNat (w : Nat) (r : Row) (j : Nat) :
    (r.word w j).toNat =
      ((List.range w).map fun p => if j * w + p < r.count then (r.bit (j * w + p)).toNat * 2 ^ p else 0).sum := by
  rw [bitVec_toNat_eq_sum]
  congr 1
  refine List.map_congr_left fun p hp => ?_
  split
  case isTrue => rw [Row.word_getLsbD, decide_eq_true (List.mem_range.1 hp), Bool.true_and]
  case isFalse hpad => rw [Row.word_padding w r j p (Nat.le_of_not_lt hpad), Bool.toNat_false, Nat.zero_mul]

/-! ### The number of words -/

@[simp] theorem Row.words_length (w : Nat) (r : Row) : (r.words w).length = wordCount w r.count := by
  simp [Row.words]

/-- Fewer than `W` positions of the backing words are padding. -/
theorem wordCount_mul_lt {w : Nat} (hw : 0 < w) (n : Nat) : wordCount w n * w < n + w := by
  have hfloor : wordCount w n * w ≤ n + w - 1 := Nat.div_mul_le_self (n + w - 1) w
  omega

/-- The backing words have room for every bit. -/
theorem le_wordCount_mul {w : Nat} (hw : 0 < w) (n : Nat) : n ≤ wordCount w n * w := by
  have hnext : n + w - 1 < wordCount w n * w + w := Nat.lt_div_mul_add hw
  omega

/-- Settles O57, from the bits, the value and the number of a row's words. -/
theorem wordsHoldTheBits : Obligations.WordsHoldTheBits := by
  intro w r hw
  rw [Row.words_length]
  exact ⟨fun i _ => Row.word_getLsbD_div_mod hw r i, fun j p _ => Row.word_padding w r j p, Row.word_toNat w r,
    wordCount_mul_lt hw r.count, le_wordCount_mul hw r.count⟩

end Sys2Proof.Machine
end

section
/-!
SUPPORT. The step (30_encoding R103, R104, 70_reset R361): the event a step takes, that every command answers a next state with
a response, and the obligations that follow.
-/

namespace Sys2Proof.Machine

open Sys2Proof.Safety

variable {s t : State} {d src : Slot} {i : Instr} {f : FaultCode} {k : Result} {p : Port} {w : Word} {rest : List PortEvent}

/-! ### The event a step takes -/

/-- A step on a host word runs the word on the state that has accepted and latched it (R304; log 4). -/
theorem step_hostWord (h : s.inbox = .hostWord w :: rest) :
    step s = runAccepted ⟨.host, w, { s with inbox := rest, hostWord := w }⟩ := by
  simp [step, State.accept, h]

/-- A step on a row word runs the word on the state that has accepted it (log 4). -/
theorem step_rowWord (h : s.inbox = .rowWord w :: rest) :
    step s = runAccepted ⟨.row, w, { s with inbox := rest }⟩ := by
  simp [step, State.accept, h]

/-- With no event the block waits (R326, R342). -/
theorem step_idle (h : s.inbox = []) : step s = .next s := by
  simp [step, State.accept, h]

/-- A step takes the reset input, between two commands or during one (R340). -/
theorem step_reset (h : s.inbox = .reset :: rest) : step s = .next { s with inbox := rest }.applyReset := by
  simp [step, State.accept, h]

theorem step_resetDuring (h : s.inbox = .resetDuring w :: rest) : step s = .next { s with inbox := rest }.applyReset := by
  simp [step, State.accept, h]

/-! ### An accepted word -/

theorem runAccepted_ok (h : decode p w = .ok i) : runAccepted ⟨p, w, s⟩ = exec i s := by
  simp [runAccepted, h]

theorem runAccepted_error (h : decode p w = .error f) : runAccepted ⟨p, w, s⟩ = decodeFault f s := by
  simp [runAccepted, h]

/-- A word the decoder faults enters the fault state, or is refused in it (R304, R305; log 7). -/
theorem decodeFault_eq (f : FaultCode) (s : State) :
    ∃ t, decodeFault f s = .next t ∧ if s.faulted = false then FaultEntry f s t else Refused s t := by
  by_cases hf : s.faulted = false
  · rw [decodeFault, whenRunning_pos _ hf]
    exact ⟨s.enterFault f, rfl, by rw [if_pos hf]; rfl⟩
  · rw [decodeFault, whenRunning_neg _ (by simpa using hf)]
    exact ⟨s.turnedAway, rfl, by rw [if_neg hf]; rfl⟩

/-- Settles O11, by the event at the inputs. -/
theorem stepRunsDecodedCommand : Obligations.StepRunsDecodedCommand := by
  intro s w rest
  refine ⟨fun i hin hdec => ?_, fun i hin hdec => ?_, fun f hin hdec => ?_, fun f hin hdec => ?_, step_idle⟩
  · rw [step_hostWord hin, runAccepted_ok hdec]
  · rw [step_rowWord hin, runAccepted_ok hdec]
  · rw [step_hostWord hin, runAccepted_error hdec]
    exact decodeFault_eq f _
  · rw [step_rowWord hin, runAccepted_error hdec]
    exact decodeFault_eq f _

/-! ### Every command answers -/

/-- The outcome is a next state that holds a response (R104). -/
def Answers (k : Result) : Prop := ∃ t r, k = .next t ∧ t.response = some r

theorem answers_respond (v : Word) (s : State) : Answers (respond v s) := ⟨_, _, rfl, rfl⟩

theorem answers_raiseFault (f : FaultCode) (s : State) : Answers (raiseFault f s) := ⟨_, _, rfl, rfl⟩

theorem answers_require (c : Prop) [Decidable c] (hk : Answers k) : Answers (require c f s k) := by
  by_cases hc : c
  · rwa [require_pos c f k hc]
  · rw [require_neg c f k hc]
    exact answers_raiseFault f s

theorem answers_whenRunning (hk : Answers k) : Answers (whenRunning s k) := by
  cases hf : s.faulted with
  | false => rwa [whenRunning_pos k hf]
  | true =>
    rw [whenRunning_neg k hf]
    exact ⟨_, _, rfl, rfl⟩

theorem answers_whenCreated (hk : Answers k) : Answers (whenCreated s k) :=
  answers_whenRunning (answers_require _ hk)

theorem answers_withRow {k : Row → Result} (hk : ∀ r, Answers (k r)) : Answers (withRow s d k) := by
  cases hr : s.mem.read d with
  | some r => rw [withRow_pos d k r hr]; exact hk r
  | none => simpa only [withRow, hr] using answers_raiseFault .unallocatedRow s

/-! The shapes of the row commands: their checks end in a response. -/

theorem answers_createRow (n : Nat) (v : Row) (s' : State) : Answers (createRow d n v s s') :=
  answers_whenCreated <| answers_require _ <| answers_require _ <| answers_require _ <| answers_respond _ _

theorem answers_combineRows (op : Row → Row → Row) : Answers (combineRows op d src s) :=
  answers_whenCreated <| answers_require _ <| answers_require _ <| answers_withRow fun _ => answers_withRow fun _ =>
    answers_require _ <| answers_respond _ _

theorem answers_replaceRow (op : Row → Row) : Answers (replaceRow op d src s) :=
  answers_whenCreated <| answers_require _ <| answers_require _ <| answers_withRow fun _ =>
    answers_require _ <| answers_respond _ _

theorem answers_shiftRow (op : Row → Nat → Row) (n : Nat) : Answers (shiftRow op d n s) :=
  answers_whenCreated <| answers_require _ <| answers_withRow fun _ => answers_require _ <| answers_respond _ _

/-- Every command answers from every state: its checks end in a response or a fault (R104, R361). -/
theorem exec_answers (i : Instr) (s : State) : Answers (exec i s) := by
  cases i with
  | create w h nbh =>
    exact answers_whenRunning <| answers_require _ <| answers_require _ <| answers_require _ <| answers_respond _ _
  | clear | putRandom | readGen | readWidth | readHeight => exact answers_whenCreated (answers_respond _ _)
  | putFixedSeed | advance | getCell | setCell =>
    exact answers_whenCreated <| answers_require _ <| answers_respond _ _
  | readStatus | readFcmd => exact answers_respond _ _
  | rowCreate | rowRandom => exact answers_createRow _ _ _
  | rowGet | rowSet =>
    exact answers_whenCreated <| answers_require _ <| answers_withRow fun _ => answers_require _ <| answers_respond _ _
  | rowClear => exact answers_whenCreated <| answers_require _ <| answers_withRow fun _ => answers_respond _ _
  | rowAnd | rowOr | rowXor => exact answers_combineRows _
  | rowNot | rowCopy => exact answers_replaceRow _
  | rowShl | rowShr => exact answers_shiftRow _ _

/-- Every accepted word gets a response, whether it decodes or not. -/
theorem runAccepted_answers (p : Port) (w : Word) (s : State) : Answers (runAccepted ⟨p, w, s⟩) := by
  cases hdec : decode p w with
  | ok i =>
    rw [runAccepted_ok hdec]
    exact exec_answers i s
  | error f =>
    rw [runAccepted_error hdec]
    exact answers_whenRunning (answers_raiseFault f s)

/-- Settles O12, by the event at the inputs. -/
theorem everyStepAnswersANextState : Obligations.EveryStepAnswersANextState := by
  intro s
  cases hin : s.inbox with
  | nil => exact ⟨s, step_idle hin, by simp⟩
  | cons e rest =>
    cases e with
    | reset => exact ⟨_, step_reset hin, by simp⟩
    | resetDuring w => exact ⟨_, step_resetDuring hin, by simp⟩
    | hostWord w =>
      obtain ⟨t, r, hrun, hresp⟩ := runAccepted_answers .host w { s with inbox := rest, hostWord := w }
      exact ⟨t, (step_hostWord hin).trans hrun, fun _ _ _ => ⟨r, hresp⟩⟩
    | rowWord w =>
      obtain ⟨t, r, hrun, hresp⟩ := runAccepted_answers .row w { s with inbox := rest }
      exact ⟨t, (step_rowWord hin).trans hrun, fun _ _ _ => ⟨r, hresp⟩⟩

end Sys2Proof.Machine
end

section
/-!
SUPPORT. Encoding (30_encoding sections 1 to 5): the decoder as one rule per command, the words that match a row of R99 rebuilt
from their fields, what the decoder faults, and the obligations on commands and words that follow.
-/

namespace Sys2Proof

open Sys2Proof.Machine Sys2Proof.Safety

variable {op : Opcode} {p : Port} {w : Word} {i : Instr} {f : FaultCode} {s : State}

/-! ### The match and mask table (R99) -/

/-- The word's bits under the row's mask are the row's match (R99). -/
def Matches (op : Opcode) (w : Word) : Prop := w &&& op.mask = op.matchWord

/-- Every match is its opcode with zeros in all other bits. -/
theorem matchWord_eq (op : Opcode) : op.matchWord = (op.bits ++ 0#58 : BitVec (6 + 58)) := by
  cases op <;> rfl

/-- A field that lies under the ones of a mask is the same in the masked word. -/
theorem extractLsb'_of_and_eq {m v : Word} (h : w &&& m = v) (start len : Nat)
    (hm : m.extractLsb' start len = BitVec.allOnes len) : w.extractLsb' start len = v.extractLsb' start len := by
  rw [← h, BitVec.extractLsb'_and, hm, BitVec.and_allOnes]

/-- No mask leaves a bit of the opcode field free. -/
theorem fieldOpc_of_matches (h : Matches op w) : fieldOpc w = op.bits := by
  have hopc : fieldOpc w = op.matchWord.extractLsb' 58 6 :=
    extractLsb'_of_and_eq h 58 6 (by cases op <;> rfl)
  rw [hopc, matchWord_eq]
  cases op <;> rfl

/-- The rows of R99 are disjoint: a word's opcode field names the only row it can match. -/
theorem opcode_eq_of_matches {a b : Opcode} (ha : Matches a w) (hb : Matches b w) : a = b := by
  have hbits : a.bits = b.bits := (fieldOpc_of_matches ha).symm.trans (fieldOpc_of_matches hb)
  simpa using congrArg opcodeOfBits hbits

/-- The word of a command matches the command's row, for every value of the operands. -/
theorem matches_encode (i : Instr) : Matches i.opcode (encode i) := by
  cases i with
  | create w h nbh => exact Laws.MatchesOwnRow.create w h nbh
  | clear => exact Laws.MatchesOwnRow.clear
  | putRandom => exact Laws.MatchesOwnRow.putRandom
  | putFixedSeed => exact Laws.MatchesOwnRow.putFixedSeed
  | advance => exact Laws.MatchesOwnRow.advance
  | getCell x y => exact Laws.MatchesOwnRow.getCell x y
  | setCell x y v => exact Laws.MatchesOwnRow.setCell x y v
  | readGen => exact Laws.MatchesOwnRow.readGen
  | readWidth => exact Laws.MatchesOwnRow.readWidth
  | readHeight => exact Laws.MatchesOwnRow.readHeight
  | readStatus => exact Laws.MatchesOwnRow.readStatus
  | readFcmd => exact Laws.MatchesOwnRow.readFcmd
  | rowCreate d n => exact Laws.MatchesOwnRow.rowCreate d n
  | rowRandom d n => exact Laws.MatchesOwnRow.rowRandom d n
  | rowGet d n => exact Laws.MatchesOwnRow.rowGet d n
  | rowSet d n v => exact Laws.MatchesOwnRow.rowSet d n v
  | rowClear d => exact Laws.MatchesOwnRow.rowClear d
  | rowAnd d src => exact Laws.MatchesOwnRow.rowAnd d src
  | rowOr d src => exact Laws.MatchesOwnRow.rowOr d src
  | rowXor d src => exact Laws.MatchesOwnRow.rowXor d src
  | rowNot d src => exact Laws.MatchesOwnRow.rowNot d src
  | rowCopy d src => exact Laws.MatchesOwnRow.rowCopy d src
  | rowShl d k => exact Laws.MatchesOwnRow.rowShl d k
  | rowShr d k => exact Laws.MatchesOwnRow.rowShr d k

/-! ### The decoder, case by case (R103) -/

theorem decode_of_reserved (h : opcodeOfBits (fieldOpc w) = none) : decode p w = .error .illegalCommand := by
  simp [decode, h]

theorem decode_of_matches (h : Matches op w) : decode op.port w = fieldsOf op w := by
  unfold Matches at h
  simp [decode, fieldOpc_of_matches h, h]

theorem decode_of_not_matches (hopc : fieldOpc w = op.bits) (h : ¬Matches op w) :
    decode op.port w = .error .illegalCommand := by
  unfold Matches at h
  simp [decode, hopc, h]

theorem decode_host_of_row_opcode (h : (opcodeOfBits (fieldOpc w)).map Opcode.port = some .row) :
    decode .host w = .error .rowPortPrivilege := by
  obtain ⟨op, hop, hport⟩ := Option.map_eq_some_iff.1 h
  simp [decode, hop, hport]

theorem decode_row_of_host_opcode (h : (opcodeOfBits (fieldOpc w)).map Opcode.port = some .host) :
    decode .row w = .error .illegalCommand := by
  obtain ⟨op, hop, hport⟩ := Option.map_eq_some_iff.1 h
  simp [decode, hop, hport]

/-- A word decodes to a command exactly if, on the command's port, it matches the command's row and its fields make the
command. -/
theorem decode_eq_ok_iff_fieldsOf :
    decode p w = .ok i ↔ i.opcode.port = p ∧ Matches i.opcode w ∧ fieldsOf i.opcode w = .ok i := by
  constructor
  · intro h
    have hport := port_of_decode h
    refine ⟨hport, ?_⟩
    unfold decode at h
    split at h
    · cases h
    · rename_i op _
      split at h
      · split at h
        · rename_i hmatch
          obtain rfl := opcode_of_fieldsOf h
          exact ⟨hmatch, h⟩
        · cases h
      · cases p <;> cases h
  · rintro ⟨rfl, hmatch, hfields⟩
    exact (decode_of_matches hmatch).trans hfields

/-! ### From the command to the word and back -/

/-- No value operand of ROW_SET is encoded with VS = V = 1 (R101, R105). -/
@[simp] theorem BitSource.vs_and_v (v : BitSource) : (v.vs && v.v) = false := by cases v <;> rfl

theorem Slot.wellFormed_mod {d : Slot} (h : d.wellFormed = true) : d.index % 1048576 = d.index :=
  fitsField_mod_numeral d.index h

/-- The fields of a well-formed command's word make the command (R92, R97). -/
theorem fieldsOf_encode (h : i.wellFormed = true) : fieldsOf i.opcode (encode i) = .ok i := by
  cases i with
  | clear | putRandom | putFixedSeed | advance | readGen | readWidth | readHeight | readStatus | readFcmd => rfl
  | create | getCell | setCell =>
    obtain ⟨hx, hy⟩ := (Bool.and_eq_true _ _).mp h
    simp [fieldsOf, encode, Instr.opcode, fitsField_mod_numeral _ hx, fitsField_mod_numeral _ hy]
  | rowCreate | rowRandom | rowGet | rowSet | rowShl | rowShr =>
    obtain ⟨hd, hn⟩ := (Bool.and_eq_true _ _).mp h
    simp [fieldsOf, encode, Instr.opcode, -Bool.and_eq_true, Slot.wellFormed_mod hd, fitsField_mod_numeral _ hn]
  | rowClear =>
    simp [fieldsOf, encode, Instr.opcode, Slot.wellFormed_mod h]
  | rowAnd | rowOr | rowXor | rowNot | rowCopy =>
    obtain ⟨hd, hsrc⟩ := (Bool.and_eq_true _ _).mp h
    simp [fieldsOf, encode, Instr.opcode, Slot.wellFormed_mod hd, Slot.wellFormed_mod hsrc]

/-! ### A word rebuilt from its fields (R91 to R96) -/

theorem ofBool_getLsbD (w : Word) (j : Nat) : BitVec.ofBool (w.getLsbD j) = w.extractLsb' j 1 := by
  refine BitVec.eq_of_getLsbD_eq fun k hk => ?_
  obtain rfl : k = 0 := by omega
  simp

/-- A word whose bits 55:40 are 0 is the word of format H of its fields (R91). -/
theorem encodeH_fields (h : w.extractLsb' 40 16 = 0#16) :
    encodeH (fieldOpc w) (fieldV w) (fieldNb w) (fieldA w) (fieldB w) = w := by
  simp only [encodeH, fieldOpc, fieldV, fieldNb, fieldA, fieldB, ofBool_getLsbD, BitVec.ofNat_toNat, BitVec.setWidth_eq,
    ← h, BitVec.extractLsb'_append_extractLsb'_eq_extractLsb']
  exact BitVec.extractLsb'_eq_self

/-- A word whose bits 57:54 and 31:22 are 0 and whose space fields name spaces is the word of format R of its fields
(R93). -/
theorem encodeR_fields {dsp ssp : Space} (hz : w.extractLsb' 54 4 = 0#4) (hz' : w.extractLsb' 22 10 = 0#10)
    (hd : fieldDsp w = dsp.bits) (hs : fieldSsp w = ssp.bits) :
    encodeR (fieldOpc w) ⟨dsp, fieldDi w⟩ ⟨ssp, fieldSi w⟩ = w := by
  simp only [encodeR, ← hd, ← hs, fieldOpc, fieldDsp, fieldDi, fieldSsp, fieldSi, BitVec.ofNat_toNat, BitVec.setWidth_eq,
    ← hz, ← hz', BitVec.extractLsb'_append_extractLsb'_eq_extractLsb']
  exact BitVec.extractLsb'_eq_self

/-- A word whose bits 55:54 and 31:20 are 0 and whose space field names a space is the word of format RI of its fields
(R95). -/
theorem encodeRI_fields {dsp : Space} (hz : w.extractLsb' 54 2 = 0#2) (hz' : w.extractLsb' 20 12 = 0#12)
    (hd : fieldDsp w = dsp.bits) :
    encodeRI (fieldOpc w) (fieldV w) (fieldVs w) ⟨dsp, fieldDi w⟩ (fieldImm w) = w := by
  simp only [encodeRI, ← hd, fieldOpc, fieldV, fieldVs, fieldDsp, fieldDi, fieldImm, ofBool_getLsbD, BitVec.ofNat_toNat,
    BitVec.setWidth_eq, ← hz, ← hz', BitVec.extractLsb'_append_extractLsb'_eq_extractLsb']
  exact BitVec.extractLsb'_eq_self

/-- A word whose bits 57:54 and 31:0 are 0 and whose space field names a space is the word of format R1 of its fields
(R96). -/
theorem encodeR1_fields {dsp : Space} (hz : w.extractLsb' 54 4 = 0#4) (hz' : w.extractLsb' 0 32 = 0#32)
    (hd : fieldDsp w = dsp.bits) : encodeR1 (fieldOpc w) ⟨dsp, fieldDi w⟩ = w := by
  simp only [encodeR1, ← hd, fieldOpc, fieldDsp, fieldDi, BitVec.ofNat_toNat, BitVec.setWidth_eq, ← hz, ← hz',
    BitVec.extractLsb'_append_extractLsb'_eq_extractLsb']
  exact BitVec.extractLsb'_eq_self

/-- The bits of a word that a row's mask covers are those of the row's match. -/
theorem getLsbD_of_and_eq {m v : Word} (h : w &&& m = v) (j : Nat) (hm : m.getLsbD j = true) :
    w.getLsbD j = v.getLsbD j := by
  rw [← h, BitVec.getLsbD_and, hm, Bool.and_true]

/-! ### What the fields of a word make (R94, R97, R101) -/

theorem spaceOfBits_eq_some_iff {b : BitVec 2} {sp : Space} : spaceOfBits b = some sp ↔ b = sp.bits := by
  revert b
  cases sp <;> decide

theorem spaceOfBits_eq_none_iff {b : BitVec 2} : spaceOfBits b = none ↔ b = 3#2 := by
  revert b
  decide

@[simp] theorem bit_neighborhoodOfBit (b : Bool) : (neighborhoodOfBit b).bit = b := by cases b <;> rfl

/-- Unless VS = V = 1, a value operand has the V and VS fields it is made from. -/
theorem bitSourceOf_fields {v vs : Bool} (h : ¬(vs = true ∧ v = true)) :
    (bitSourceOf v vs).v = v ∧ (bitSourceOf v vs).vs = vs := by
  revert v vs
  decide

/-- Every value of a 20-bit field fits the field. -/
theorem fitsField_toNat (x : BitVec 20) : fitsField x.toNat = true := by
  simpa [fitsField] using x.isLt

@[simp] theorem fitsField_fieldA (w : Word) : fitsField (fieldA w) = true := fitsField_toNat _
@[simp] theorem fitsField_fieldB (w : Word) : fitsField (fieldB w) = true := fitsField_toNat _
@[simp] theorem fitsField_fieldImm (w : Word) : fitsField (fieldImm w) = true := fitsField_toNat _
@[simp] theorem wellFormed_fieldDi (sp : Space) (w : Word) : Slot.wellFormed ⟨sp, fieldDi w⟩ = true := fitsField_toNat _
@[simp] theorem wellFormed_fieldSi (sp : Space) (w : Word) : Slot.wellFormed ⟨sp, fieldSi w⟩ = true := fitsField_toNat _

/-- The command of a word's fields is well formed. -/
theorem wellFormed_of_fieldsOf (h : fieldsOf op w = .ok i) : i.wellFormed = true := by
  cases op with
  | clear | putRandom | putFixedSeed | advance | readGen | readWidth | readHeight | readStatus | readFcmd
  | create | getCell | setCell =>
    cases h
    simp [Instr.wellFormed]
  | rowClear | rowCreate | rowRandom | rowGet | rowShl | rowShr =>
    cases hd : spaceOfBits (fieldDsp w) <;> simp only [fieldsOf, hd] at h <;> cases h
    simp [Instr.wellFormed]
  | rowSet =>
    cases hd : spaceOfBits (fieldDsp w) <;> simp only [fieldsOf, hd] at h <;> split at h <;> cases h
    simp [Instr.wellFormed]
  | rowAnd | rowOr | rowXor | rowNot | rowCopy =>
    cases hd : spaceOfBits (fieldDsp w) <;> cases hs : spaceOfBits (fieldSsp w) <;>
      simp only [fieldsOf, hd, hs] at h <;> cases h
    simp [Instr.wellFormed]

/-- A word that matches a row is the word of the command its fields make: the free bits of a row are the bits of its
fields (R99). -/
theorem encode_of_fieldsOf (hm : Matches op w) (h : fieldsOf op w = .ok i) : encode i = w := by
  have hopc := fieldOpc_of_matches hm
  cases op with
  | clear | putRandom | putFixedSeed | advance | readGen | readWidth | readHeight | readStatus | readFcmd =>
    cases h
    exact hm.symm.trans (BitVec.and_allOnes)
  | create =>
    cases h
    have hv : fieldV w = false := getLsbD_of_and_eq hm 57 rfl
    have hw := encodeH_fields (extractLsb'_of_and_eq hm 40 16 rfl)
    simpa [encode, ← hopc, hv] using hw
  | getCell =>
    cases h
    have hv : fieldV w = false := getLsbD_of_and_eq hm 57 rfl
    have hnb : fieldNb w = false := getLsbD_of_and_eq hm 56 rfl
    have hw := encodeH_fields (extractLsb'_of_and_eq hm 40 16 rfl)
    simpa [encode, ← hopc, hv, hnb] using hw
  | setCell =>
    cases h
    have hnb : fieldNb w = false := getLsbD_of_and_eq hm 56 rfl
    have hw := encodeH_fields (extractLsb'_of_and_eq hm 40 16 rfl)
    simpa [encode, ← hopc, hnb] using hw
  | rowCreate | rowRandom | rowGet | rowShl | rowShr =>
    cases hd : spaceOfBits (fieldDsp w) <;> simp only [fieldsOf, hd] at h <;> cases h
    have hv : fieldV w = false := getLsbD_of_and_eq hm 57 rfl
    have hvs : fieldVs w = false := getLsbD_of_and_eq hm 56 rfl
    have hw := encodeRI_fields (extractLsb'_of_and_eq hm 54 2 rfl) (extractLsb'_of_and_eq hm 20 12 rfl)
      (spaceOfBits_eq_some_iff.1 hd)
    simpa [encode, ← hopc, hv, hvs] using hw
  | rowSet =>
    cases hd : spaceOfBits (fieldDsp w) <;> simp only [fieldsOf, hd] at h <;> split at h <;> cases h
    rename_i hboth
    obtain ⟨hv, hvs⟩ := bitSourceOf_fields (by simpa using hboth)
    have hw := encodeRI_fields (extractLsb'_of_and_eq hm 54 2 rfl) (extractLsb'_of_and_eq hm 20 12 rfl)
      (spaceOfBits_eq_some_iff.1 hd)
    simpa [encode, ← hopc, hv, hvs] using hw
  | rowClear =>
    cases hd : spaceOfBits (fieldDsp w) <;> simp only [fieldsOf, hd] at h <;> cases h
    have hw := encodeR1_fields (extractLsb'_of_and_eq hm 54 4 rfl) (extractLsb'_of_and_eq hm 0 32 rfl)
      (spaceOfBits_eq_some_iff.1 hd)
    simpa [encode, ← hopc] using hw
  | rowAnd | rowOr | rowXor | rowNot | rowCopy =>
    cases hd : spaceOfBits (fieldDsp w) <;> cases hs : spaceOfBits (fieldSsp w) <;>
      simp only [fieldsOf, hd, hs] at h <;> cases h
    have hw := encodeR_fields (extractLsb'_of_and_eq hm 54 4 rfl) (extractLsb'_of_and_eq hm 22 10 rfl)
      (spaceOfBits_eq_some_iff.1 hd) (spaceOfBits_eq_some_iff.1 hs)
    simpa [encode, ← hopc] using hw

/-- The checks that match and mask do not express: no space field the row uses is 3 (R94), and no ROW_SET with VS = V = 1
(R101). -/
def FieldsLegal (op : Opcode) (w : Word) : Prop :=
  (op.format ≠ .h → fieldDsp w ≠ 3#2) ∧ (op.format = .r → fieldSsp w ≠ 3#2) ∧
    (op = .rowSet → ¬(fieldVs w = true ∧ fieldV w = true))

/-- The word of a command passes the checks: a space has no number 3, and a value operand is not encoded VS = V = 1. -/
theorem fieldsLegal_encode (i : Instr) : FieldsLegal i.opcode (encode i) := by
  have hsp : ∀ sp : Space, sp.bits ≠ 3#2 := fun sp => by cases sp <;> decide
  cases i with
  | create | clear | putRandom | putFixedSeed | advance | getCell | setCell
  | readGen | readWidth | readHeight | readStatus | readFcmd => exact ⟨fun h => absurd rfl h, nofun, nofun⟩
  | rowCreate | rowRandom | rowGet | rowShl | rowShr | rowClear =>
    exact ⟨fun _ => by simp [encode, hsp], nofun, nofun⟩
  | rowSet d n v =>
    exact ⟨fun _ => by simp [encode, hsp], nofun, fun _ => by simp [encode, ← Bool.and_eq_true]⟩
  | rowAnd | rowOr | rowXor | rowNot | rowCopy =>
    exact ⟨fun _ => by simp [encode, hsp], fun _ => by simp [encode, hsp], nofun⟩

/-- Fields that pass the checks make a command. -/
theorem exists_fieldsOf (h : FieldsLegal op w) : ∃ i, fieldsOf op w = .ok i := by
  obtain ⟨hd, hs, hset⟩ := h
  have hspace : ∀ b : BitVec 2, b ≠ 3#2 → ∃ sp, spaceOfBits b = some sp := fun b hb =>
    Option.ne_none_iff_exists'.1 (mt spaceOfBits_eq_none_iff.1 hb)
  cases op with
  | create | clear | putRandom | putFixedSeed | advance | getCell | setCell
  | readGen | readWidth | readHeight | readStatus | readFcmd => exact ⟨_, rfl⟩
  | rowCreate | rowRandom | rowGet | rowShl | rowShr | rowClear =>
    obtain ⟨dsp, hdsp⟩ := hspace _ (hd nofun)
    simp [fieldsOf, hdsp]
  | rowSet =>
    obtain ⟨dsp, hdsp⟩ := hspace _ (hd nofun)
    simp [fieldsOf, hdsp, hset rfl]
  | rowAnd | rowOr | rowXor | rowNot | rowCopy =>
    obtain ⟨dsp, hdsp⟩ := hspace _ (hd nofun)
    obtain ⟨ssp, hssp⟩ := hspace _ (hs rfl)
    simp [fieldsOf, hdsp, hssp]

/-! ### The obligations on decoding and encoding -/

/-- The words that decode are the words of the port's well-formed commands, each to its command. -/
theorem decode_eq_ok_iff : decode p w = .ok i ↔ encode i = w ∧ i.wellFormed = true ∧ i.opcode.port = p := by
  rw [decode_eq_ok_iff_fieldsOf]
  constructor
  · rintro ⟨hport, hmatch, hfields⟩
    exact ⟨encode_of_fieldsOf hmatch hfields, wellFormed_of_fieldsOf hfields, hport⟩
  · rintro ⟨rfl, hwf, hport⟩
    exact ⟨hport, matches_encode i, fieldsOf_encode hwf⟩

/-- Settles O5, by `decode_eq_ok_iff`. -/
theorem decodeOfEncode : Obligations.DecodeOfEncode :=
  fun _ hwf => decode_eq_ok_iff.2 ⟨rfl, hwf, rfl⟩

/-- Settles O6, by `decode_eq_ok_iff`. -/
theorem encodeOfDecode : Obligations.EncodeOfDecode :=
  fun _ _ _ => decode_eq_ok_iff.1

/-- A word decodes on a port to a command of a row exactly if the row is the port's, the word matches it and its fields pass
the checks (R103). -/
theorem exists_decode_iff :
    (∃ i, decode p w = .ok i ∧ i.opcode = op) ↔ op.port = p ∧ Matches op w ∧ FieldsLegal op w := by
  constructor
  · rintro ⟨i, hdec, rfl⟩
    obtain ⟨rfl, -, hport⟩ := decode_eq_ok_iff.1 hdec
    exact ⟨hport, matches_encode i, fieldsLegal_encode i⟩
  · rintro ⟨rfl, hmatch, hlegal⟩
    obtain ⟨i, hfields⟩ := exists_fieldsOf hlegal
    exact ⟨i, (decode_of_matches hmatch).trans hfields, opcode_of_fieldsOf hfields⟩

/-- Settles O7, by `exists_decode_iff` and the disjointness of the rows. -/
theorem decodeIffOneRowMatches : Obligations.DecodeIffOneRowMatches :=
  ⟨fun _ _ _ => exists_decode_iff, fun _ _ _ => opcode_eq_of_matches⟩

/-- Settles O10: each word is the encoding of its command. -/
theorem decodesWorkedWords : Obligations.DecodesWorkedWords := by
  simp only [Obligations.DecodesWorkedWords, decode_eq_ok_iff]
  decide

/-! ### Words the decoder faults -/

/-- A word the decoder faults enters the fault state with the decoder's code (R103, R304). -/
theorem runAccepted_faults (hdec : decode p w = .error f) (hf : s.faulted = false) :
    Faults f (runAccepted ⟨p, w, s⟩) s := by
  obtain ⟨t, ht, hfault⟩ := decodeFault_eq f s
  rw [if_pos hf] at hfault
  exact ⟨t, (runAccepted_error hdec).trans ht, hfault⟩

/-- The reserved opcodes (R100). -/
theorem opcodeOfBits_reserved {b : BitVec 6}
    (h : b.toNat = 0x00 ∨ (0x0D ≤ b.toNat ∧ b.toNat ≤ 0x0F) ∨ 0x1C ≤ b.toNat) : opcodeOfBits b = none := by
  revert b
  decide

/-- The opcodes of the row port (R98). -/
theorem port_of_row_opcode {b : BitVec 6} (h : 0x10 ≤ b.toNat ∧ b.toNat ≤ 0x1B) :
    (opcodeOfBits b).map Opcode.port = some .row := by
  revert b
  decide

/-- The opcodes of the host port (R98). -/
theorem port_of_host_opcode {b : BitVec 6} (h : 0x01 ≤ b.toNat ∧ b.toNat ≤ 0x0C) :
    (opcodeOfBits b).map Opcode.port = some .host := by
  revert b
  decide

/-- Settles O8, by the decoder's cases. -/
theorem reservedEncodingsAreIllegal : Obligations.ReservedEncodingsAreIllegal := fun _ hf =>
  ⟨fun _ _ hopc => runAccepted_faults (decode_of_reserved (opcodeOfBits_reserved hopc)) hf,
    fun _ => runAccepted_faults (decode_of_reserved rfl) hf,
    fun _ _ hopc hmask => runAccepted_faults (decode_of_not_matches hopc hmask) hf⟩

/-- Settles O9: a word that is no command of the port does not decode (O5, O6), and the decoder's code for a wrong-port
opcode is that of R102. -/
theorem wrongPortOpcodesFault : Obligations.WrongPortOpcodesFault := by
  intro s w hf
  refine ⟨fun p hnone => ?_,
    fun hrow => runAccepted_faults (decode_host_of_row_opcode (port_of_row_opcode hrow)) hf,
    fun hhost => runAccepted_faults (decode_row_of_host_opcode (port_of_host_opcode hhost)) hf⟩
  cases hdec : decode p w with
  | error f => exact ⟨f, runAccepted_faults hdec hf⟩
  | ok i =>
    obtain ⟨hw, hwf, hport⟩ := decode_eq_ok_iff.1 hdec
    exact absurd hw (hnone i hwf hport)

end Sys2Proof
end

section
/-!
SUPPORT. Programs of row commands (30_encoding R106): what a program that ran without a fault leaves, as an update of the slots,
rule by rule for the commands; the rows the pseudo-commands leave; and the obligation that follows.
-/

namespace Sys2Proof.Machine

open Sys2Proof.Safety

variable {s t : State} {d src : Slot} {i : Instr} {p q : List Instr} {ρ ρ' : Slot → Option Row} {b b' : Bool}
  {u v : Row}

/-! ### Slots that exist (R130) -/

theorem slotExists_of_not_missing (h : ¬SlotMissing s d) : slotExists s d = true := by
  obtain ⟨sp, j⟩ := d
  cases sp <;> simpa [slotExists, SlotMissing] using h

/-- In the canonical form a slot that exists has an entry (R36 to R38). -/
theorem has_of_slotExists (hm : StorageWf s) (h : slotExists s d = true) : s.mem.has d = true := by
  obtain ⟨hg, -, hn, -, ht, -⟩ := (Memory.wf_iff ..).1 hm
  obtain ⟨sp, j⟩ := d
  cases sp <;> simpa [slotExists, Memory.has, hg, hn, ht] using h

/-- A write to a slot that has an entry updates that slot's row and no other (R19, R65). -/
theorem Memory.read_write (m : Memory) (d : Slot) (v : Row) (h : m.has d = true) :
    (m.write d v).read = Function.update m.read d (some v) := by
  funext e
  by_cases he : e = d
  · rw [he, Function.update_self, Memory.read_write_same m d v h]
  · rw [Function.update_of_ne he, Memory.read_write_other m d e v he]

theorem countFits_of_count {n : Nat} (h : d.space ≠ .t → n = s.w) : countFits s d n = true := by
  obtain ⟨sp, j⟩ := d
  cases sp with
  | g | n => simpa [countFits] using h
  | t => rfl

/-! ### What a program leaves -/

/-- Commands run one after the other run as one program. -/
theorem runProgram_append (h : runProgram p s = .next t) : runProgram (p ++ q) s = runProgram q t := by
  induction p generalizing s with
  | nil => cases h; rfl
  | cons i p ih =>
    simp only [List.cons_append, runProgram] at h ⊢
    cases hi : exec i s with
    | next s' => exact ih (by simpa only [hi] using h)
    | fault r => simp [hi] at h
    | refused r => simp [hi] at h

/-- From `s` the block has come to `t` with the registers unchanged, the rows `ρ` in its slots and `b` in BREG, and can take
the next row command. -/
structure After (s t : State) (ρ : Slot → Option Row) (b : Bool) : Prop where
  inv : Inv t
  created : t.created = true
  faulted : t.faulted = false
  registers : SameRegisters s t
  rows : t.mem.read = ρ
  breg : t.breg = b

/-- The program runs from `s` without a fault and leaves the rows `ρ` and `b` in BREG. -/
def Leaves (s : State) (p : List Instr) (ρ : Slot → Option Row) (b : Bool) : Prop :=
  ∃ t, runProgram p s = .next t ∧ After s t ρ b

theorem leaves_nil (hinv : Inv s) (hrun : Running s) : Leaves s [] s.mem.read s.breg :=
  ⟨s, rfl, hinv, hrun.1, hrun.2, ⟨rfl, rfl, rfl, rfl, rfl, rfl, rfl, rfl, rfl, rfl, rfl⟩, rfl, rfl⟩

/-- One more command after a program. -/
theorem Leaves.snoc (h : Leaves s p ρ b)
    (hstep : ∀ t, After s t ρ b → ∃ t', exec i t = .next t' ∧ After s t' ρ' b') : Leaves s (p ++ [i]) ρ' b' := by
  obtain ⟨t, hp, ht⟩ := h
  obtain ⟨t', hi, ht'⟩ := hstep t ht
  refine ⟨t', ?_, ht'⟩
  rw [runProgram_append hp, runProgram, hi]
  rfl

theorem After.slotExists (h : After s t ρ b) (hd : ¬SlotMissing s d) : slotExists t d = true := by
  obtain ⟨-, -, hh, -, -, -, -, -, hp, -, -⟩ := h.registers
  have hsame : SlotMissing t d ↔ SlotMissing s d := by simp only [SlotMissing, State.h, hh, hp]
  exact slotExists_of_not_missing (mt hsame.1 hd)

theorem After.w_eq (h : After s t ρ b) : t.w = s.w := by
  obtain ⟨-, hw, -⟩ := h.registers
  rw [State.w, hw, State.w]

/-- A row command that writes one slot. -/
theorem After.wrote (h : After s t ρ b) (hd : ¬SlotMissing s d)
    (hx : exec i t = .next ((t.writeSlot d v).setResponse ⟨true, 0⟩)) :
    ∃ t', exec i t = .next t' ∧ After s t' (Function.update ρ d (some v)) b := by
  refine ⟨_, hx, (exec_effect hx).inv h.inv, h.created, h.faulted, h.registers, ?_, h.breg⟩
  obtain ⟨-, hm, -⟩ := h.inv
  rw [← h.rows]
  exact Memory.read_write t.mem d v (has_of_slotExists hm (h.slotExists hd))

/-! ### The row commands in a program (R140 to R154) -/

/-- ROW_COPY or ROW_NOT after a program (R148 to R150). -/
theorem Leaves.replace (h : Leaves s p ρ b) (cmd : Slot → Slot → Instr) (op : Row → Row)
    (hi : ∀ t, exec (cmd d src) t = replaceRow op d src t) (hd : ¬SlotMissing s d) (hsrc : ¬SlotMissing s src)
    (hv : ρ src = some v) (hfit : d.space ≠ .t → v.count = s.w) :
    Leaves s (p ++ [cmd d src]) (Function.update ρ d (some (op v))) b :=
  h.snoc fun t ht => ht.wrote hd <| (hi t).trans <| replaceRow_done op d src v ht.faulted ht.created
    (ht.slotExists hd) (ht.slotExists hsrc) (ht.rows ▸ hv) (countFits_of_count (ht.w_eq ▸ hfit))

/-- ROW_AND, ROW_OR or ROW_XOR after a program (R144 to R147). -/
theorem Leaves.combine (h : Leaves s p ρ b) (cmd : Slot → Slot → Instr) (op : Row → Row → Row)
    (hi : ∀ t, exec (cmd d src) t = combineRows op d src t) (hd : ¬SlotMissing s d) (hsrc : ¬SlotMissing s src)
    (hu : ρ d = some u) (hv : ρ src = some v) (hc : u.count = v.count) :
    Leaves s (p ++ [cmd d src]) (Function.update ρ d (some (op u v))) b :=
  h.snoc fun t ht => ht.wrote hd <| (hi t).trans <| combineRows_done op d src u v ht.faulted ht.created
    (ht.slotExists hd) (ht.slotExists hsrc) (ht.rows ▸ hu) (ht.rows ▸ hv) hc

/-- A shift by 1, which every word width admits, after a program (R152 to R154). -/
theorem Leaves.shift_one (h : Leaves s p ρ b) (cmd : Slot → Nat → Instr) (op : Row → Nat → Row)
    (hi : ∀ t, exec (cmd d 1) t = shiftRow op d 1 t) (hd : ¬SlotMissing s d) (hv : ρ d = some v) :
    Leaves s (p ++ [cmd d 1]) (Function.update ρ d (some (op v 1))) b := by
  refine h.snoc fun t ht => ht.wrote hd <| (hi t).trans ?_
  obtain ⟨⟨hw, -⟩, -⟩ := ht.inv
  exact shiftRow_done op d 1 v ht.faulted ht.created (ht.slotExists hd) (ht.rows ▸ hv) (by simpa [legalShift] using hw)

/-- ROW_GET after a program: the bit goes to BREG (R140). -/
theorem Leaves.get {j : Nat} (h : Leaves s p ρ b) (hd : ¬SlotMissing s d) (hv : ρ d = some v) (hj : j < v.count) :
    Leaves s (p ++ [.rowGet d j]) ρ (v.bit j) := by
  refine h.snoc fun t ht => ?_
  have hx := execRowGet_done d j v ht.faulted ht.created (ht.slotExists hd) (ht.rows ▸ hv) hj
  exact ⟨_, hx, (exec_effect (i := .rowGet d j) hx).inv ht.inv, ht.created, ht.faulted, ht.registers, ht.rows, rfl⟩

/-- ROW_SET from BREG after a program (R141). -/
theorem Leaves.set_breg {j : Nat} (h : Leaves s p ρ b) (hd : ¬SlotMissing s d) (hv : ρ d = some v) (hj : j < v.count) :
    Leaves s (p ++ [.rowSet d j .breg]) (Function.update ρ d (some (v.setBit j b))) b :=
  h.snoc fun _ ht => ht.wrote hd <| ht.breg ▸
    execRowSet_done d j .breg v ht.faulted ht.created (ht.slotExists hd) (ht.rows ▸ hv) hj

/-! ### The half and the full adder (R106, R226) -/

theorem Row.and_comm_of_count (a b : Row) (h : a.count = b.count) : a.and b = b.and a :=
  Row.ext_bit _ _ h fun j _ => by simp [Bool.and_comm]

/-- ROW_HA after a program: the sum is written first, so it is no source of what follows. -/
theorem Leaves.ha {a c x y : Slot} (h : Leaves s p ρ b) (hex : ∀ e ∈ [a, c, x, y], ¬SlotMissing s e)
    (hx : ρ x = some u) (hy : ρ y = some v) (hc : u.count = v.count) (hfit : ∀ e ∈ [a, c], e.space ≠ .t → u.count = s.w)
    (hxa : x ≠ a) (hya : y ≠ a) (hyc : y ≠ c) :
    Leaves s (p ++ (Pseudo.ha a c x y).expand)
      (Function.update (Function.update ρ a (some (halfAdder u v).sum)) c (some (halfAdder u v).carry)) b := by
  simp only [List.forall_mem_cons] at hex hfit
  obtain ⟨hexa, hexc, hexx, hexy, -⟩ := hex
  obtain ⟨hfita, hfitc, -⟩ := hfit
  have hcopy := h.replace .rowCopy (fun r => r) (fun _ => rfl) hexa hexx hx hfita
  have hsum := hcopy.combine .rowXor Row.xor (fun _ => rfl) hexa hexy (Function.update_self ..) (by simp [hya, hy]) hc
  have hcopy' := hsum.replace .rowCopy (fun r => r) (fun _ => rfl) hexc hexx (v := u) (by simp [hxa, hx]) hfitc
  have hcarry := hcopy'.combine .rowAnd Row.and (fun _ => rfl) hexc hexy (Function.update_self ..) (by simp [hya, hyc, hy]) hc
  simpa only [Pseudo.expand, List.append_assoc, List.cons_append, List.nil_append, Function.update_idem, halfAdder] using hcarry

/-- The condition of ROW_FA: its three results are distinct and none of its sources. -/
theorem fa_admissible_iff {a c x y z k : Slot} : (Pseudo.fa a c x y z k).admissible = true ↔
    ((a ≠ c ∧ a ≠ k) ∧ c ≠ k) ∧ (a ≠ x ∧ a ≠ y ∧ a ≠ z) ∧ (c ≠ x ∧ c ≠ y ∧ c ≠ z) ∧ k ≠ x ∧ k ≠ y ∧ k ≠ z := by
  simp [Pseudo.admissible]

/-- ROW_FA after a program: a half adder of `x` and `y`, then `z` is added to its sum, with `k` for the second carry. -/
theorem Leaves.fa {a c x y z k : Slot} {r : Row} (h : Leaves s p ρ b)
    (hex : ∀ e ∈ [a, c, x, y, z, k], ¬SlotMissing s e) (hx : ρ x = some u) (hy : ρ y = some v) (hz : ρ z = some r)
    (hc : u.count = v.count) (hc' : v.count = r.count)
    (hfit : ∀ e ∈ [a, c, k], e.space ≠ .t → u.count = s.w) (hadm : (Pseudo.fa a c x y z k).admissible = true) :
    Leaves s (p ++ (Pseudo.fa a c x y z k).expand)
      (Function.update (Function.update (Function.update ρ k (some ((u.xor v).and r))) c (some (fullAdder u v r).carry)) a
        (some (fullAdder u v r).sum)) b := by
  obtain ⟨⟨⟨hac, hak⟩, hck⟩, ⟨hax, hay, haz⟩, ⟨-, hcy, hcz⟩, -, -, hkz⟩ := fa_admissible_iff.1 hadm
  simp only [List.forall_mem_cons] at hex hfit
  obtain ⟨hexa, hexc, hexx, hexy, hexz, hexk, -⟩ := hex
  obtain ⟨hfita, hfitc, hfitk, -⟩ := hfit
  have hhalf := h.ha (a := a) (c := c) (by simp only [List.forall_mem_cons]; exact ⟨hexa, hexc, hexx, hexy, nofun⟩) hx hy hc
    (by simp only [List.forall_mem_cons]; exact ⟨hfita, hfitc, nofun⟩) hax.symm hay.symm hcy.symm
  have hcopy := hhalf.replace .rowCopy (fun r => r) (fun _ => rfl) hexk hexa (v := u.xor v) (by simp [hac, halfAdder]) hfitk
  have hcarryZ := hcopy.combine .rowAnd Row.and (fun _ => rfl) hexk hexz (v := r) (Function.update_self ..)
    (by simp [haz.symm, hcz.symm, hkz.symm, hz]) (hc.trans hc')
  have hcarry := hcarryZ.combine .rowOr Row.or (fun _ => rfl) hexc hexk (u := u.and v) (by simp [hck, halfAdder])
    (Function.update_self ..) rfl
  have hsum := hcarry.combine .rowXor Row.xor (fun _ => rfl) hexa hexz (u := u.xor v) (v := r) (by simp [hac, hak, halfAdder])
    (by simp [haz.symm, hcz.symm, hkz.symm, hz]) (hc.trans hc')
  have hcarryEq : (fullAdder u v r).carry = (u.and v).or ((u.xor v).and r) := by
    rw [fullAdder, Row.and_comm_of_count r (u.xor v) (hc.trans hc').symm]
  convert hsum using 1
  · simp only [Pseudo.expand, List.append_assoc, List.cons_append, List.nil_append]
  · funext e
    rw [hcarryEq]
    simp only [Function.update_apply]
    split_ifs <;> rfl

/-! ### The rotations by 1 (R106, R221) -/

/-- A distance of at most `n` below an index wraps at most once (R16). -/
theorem wrap_sub {j k n : Nat} (hj : j < n) (hk : k ≤ n) :
    wrap ((j : Int) - k) n = if j < k then n - k + j else j - k := by
  split
  case isTrue hlt =>
    rw [wrap, ← Int.add_emod_right, show (j : Int) - k + n = (n - k + j : Nat) by omega]
    exact wrap_of_lt _ n (by omega)
  case isFalse hge =>
    rw [show (j : Int) - k = (j - k : Nat) by omega]
    exact wrap_of_lt _ n (by omega)

/-- A distance of at most `n` above an index wraps at most once (R16). -/
theorem wrap_add {j k n : Nat} (hj : j < n) (hk : k ≤ n) :
    wrap ((j : Int) + k) n = if j + k < n then j + k else j + k - n := by
  split
  case isTrue hlt => exact wrap_of_lt (j + k) n hlt
  case isFalse hge =>
    rw [wrap, ← Int.sub_emod_right, show (j : Int) + k - n = (j + k - n : Nat) by omega]
    exact wrap_of_lt _ n (by omega)

/-- A left shift by 1 whose lost bit is patched in is a rotation (R221). -/
theorem Row.westByPatch_eq_rotl (v : Row) : v.westByPatch = v.rotl 1 := by
  refine Row.ext_bit _ _ rfl fun j (hj : j < v.count) => ?_
  rw [Row.westByPatch, Row.setBit_bit, Row.shl_bit, Row.rotl_bit, wrap_sub hj (by omega)]
  by_cases h0 : j = 0
  · simp [h0]
  · simp [h0, hj, show 1 ≤ j by omega]

/-- A right shift by 1 whose lost bit is patched in is a rotation (R221). -/
theorem Row.eastByPatch_eq_rotr (v : Row) : v.eastByPatch = v.rotr 1 := by
  refine Row.ext_bit _ _ rfl fun j (hj : j < v.count) => ?_
  rw [Row.eastByPatch, Row.setBit_bit, Row.shr_bit, Row.rotr_bit, wrap_add hj (by omega)]
  by_cases hlast : j = v.count - 1
  · simp [hlast, show v.count - 1 + 1 = v.count by omega]
  · simp [hlast, hj, show j + 1 < v.count by omega]

/-- ROW_ROTL1 after a program: a copy shifted by 1, then the lost top bit of the source set at bit 0. -/
theorem Leaves.rotl1 (h : Leaves s p ρ b) (hd : ¬SlotMissing s d) (hsrc : ¬SlotMissing s src) (hv : ρ src = some v)
    (hpos : 0 < v.count) (hfit : d.space ≠ .t → v.count = s.w) (hne : src ≠ d) :
    Leaves s (p ++ (Pseudo.rotl1 d src v.count).expand) (Function.update ρ d (some (v.rotl 1))) (v.bit (v.count - 1)) := by
  have hcopy := h.replace .rowCopy (fun r => r) (fun _ => rfl) hd hsrc hv hfit
  have hshift := hcopy.shift_one .rowShl Row.shl (fun _ => rfl) hd (Function.update_self ..)
  have hget := hshift.get (j := v.count - 1) hsrc (v := v) (by simp [hne, hv]) (by omega)
  have hset := hget.set_breg (j := 0) hd (Function.update_self ..) hpos
  rw [← Row.westByPatch_eq_rotl]
  simpa only [Pseudo.expand, List.append_assoc, List.cons_append, List.nil_append, Function.update_idem,
    Row.westByPatch] using hset

/-- ROW_ROTR1 after a program: a copy shifted by 1, then the lost bit 0 of the source set at the top. -/
theorem Leaves.rotr1 (h : Leaves s p ρ b) (hd : ¬SlotMissing s d) (hsrc : ¬SlotMissing s src) (hv : ρ src = some v)
    (hpos : 0 < v.count) (hfit : d.space ≠ .t → v.count = s.w) (hne : src ≠ d) :
    Leaves s (p ++ (Pseudo.rotr1 d src v.count).expand) (Function.update ρ d (some (v.rotr 1))) (v.bit 0) := by
  have hcopy := h.replace .rowCopy (fun r => r) (fun _ => rfl) hd hsrc hv hfit
  have hshift := hcopy.shift_one .rowShr Row.shr (fun _ => rfl) hd (Function.update_self ..)
  have hget := hshift.get (j := 0) hsrc (v := v) (by simp [hne, hv]) hpos
  have hset := hget.set_breg (j := v.count - 1) hd (Function.update_self ..) (Nat.sub_one_lt_of_lt hpos)
  rw [← Row.eastByPatch_eq_rotr]
  simpa only [Pseudo.expand, List.append_assoc, List.cons_append, List.nil_append, Function.update_idem,
    Row.eastByPatch] using hset

/-! ### The obligation on the pseudo-commands -/

/-- A program that leaves one slot rewritten leaves every other slot and the registers as they were. -/
theorem Leaves.one_slot (h : Leaves s p (Function.update s.mem.read d (some v)) b) :
    ∃ t, runProgram p s = .next t ∧ t.mem.read d = some v ∧ SameSlotsBut d s t ∧ SameRegisters s t := by
  obtain ⟨t, hp, ht⟩ := h
  exact ⟨t, hp, by rw [ht.rows, Function.update_self], fun e he => by rw [ht.rows, Function.update_of_ne he],
    ht.registers⟩

/-- Settles O55, pseudo-command by pseudo-command. -/
theorem pseudoCommandsHaveTheirEffect : Obligations.PseudoCommandsHaveTheirEffect := by
  intro s hinv hrun
  have h0 := leaves_nil hinv hrun
  refine ⟨fun d src r hadm hd hsrc hr hfit => ?_, fun a c x y u v hadm hex hu hv hc hfit => ?_,
    fun a c x y z e u v r hadm hex hu hv hr hc hc' hfit => ?_⟩
  · have hne : d ≠ src := by simpa [Pseudo.admissible] using hadm
    obtain ⟨-, hm, ⟨hdim, -⟩, -⟩ := hinv
    obtain ⟨hw1, hw2, -⟩ := hdim hrun.1
    obtain ⟨hpos, -⟩ := count_legal_of_read hm ⟨hw1, hw2⟩ hr
    exact ⟨(h0.rotl1 hd hsrc hr hpos hfit hne.symm).one_slot, (h0.rotr1 hd hsrc hr hpos hfit hne.symm).one_slot⟩
  · obtain ⟨⟨hac, hax, hay⟩, ⟨-, hcy⟩, -⟩ : (a ≠ c ∧ a ≠ x ∧ a ≠ y) ∧ (c ≠ x ∧ c ≠ y) ∧ x ≠ y := by
      simpa [Pseudo.admissible] using hadm
    obtain ⟨t, hp, ht⟩ := h0.ha hex hu hv hc hfit hax.symm hay.symm hcy.symm
    exact ⟨t, hp, by simp [ht.rows, hac], by simp [ht.rows], fun e ha hc => by simp [ht.rows, ha, hc], ht.registers⟩
  · obtain ⟨⟨⟨hac, -⟩, -⟩, -⟩ := fa_admissible_iff.1 hadm
    obtain ⟨t, hp, ht⟩ := h0.fa hex hu hv hr hc hc' hfit hadm
    exact ⟨t, hp, by simp [ht.rows], by simp [ht.rows, hac.symm], fun e' ha hc he => by simp [ht.rows, ha, hc, he],
      ht.registers⟩

end Sys2Proof.Machine
end

section
/-!
SUPPORT. Shifts and rotations of a row (40_row_storage R155, R156): a shift with its lost bits written back, the bits of the
words a shift is made of, and the obligations that follow.
-/

namespace Sys2Proof.Machine

variable {w k : Nat} {r : Row}

/-! ### Rotations from shifts (R155) -/

/-- A left shift whose lost top bits are written back at the bottom is a rotation. -/
theorem Row.patch_shl_eq_rotl (hk : k ≤ r.count) :
    (r.shl k).patch 0 k (fun i => r.bit (r.count - k + i)) = r.rotl k := by
  refine Row.ext_bit _ _ rfl fun i (hi : i < r.count) => ?_
  rw [Row.patch_bit, Row.rotl_bit, wrap_sub hi hk, Row.shl_bit, Row.shl_count]
  by_cases hlost : i < k
  · simp [hlost]
  · simp [hlost, hi, Nat.le_of_not_lt hlost]

/-- A right shift whose lost bottom bits are written back at the top is a rotation. -/
theorem Row.patch_shr_eq_rotr (hk : k ≤ r.count) : (r.shr k).patch (r.count - k) k r.bit = r.rotr k := by
  refine Row.ext_bit _ _ rfl fun i (hi : i < r.count) => ?_
  rw [Row.patch_bit, Row.rotr_bit, wrap_add hi hk, Row.shr_bit, Row.shr_count]
  by_cases hkept : i + k < r.count
  · simp [hkept, show ¬r.count - k ≤ i by omega]
  · rw [if_pos (by omega), if_neg hkept, show i - (r.count - k) = i + k - r.count by omega]

/-- Settles O56, by `Row.patch_shl_eq_rotl` and `Row.patch_shr_eq_rotr`. -/
theorem patchedShiftIsRotation : Obligations.PatchedShiftIsRotation := by
  intro r w k _ hk
  have hcount : k ≤ r.count := hk.trans (Nat.min_le_right w r.count)
  exact ⟨Row.patch_shl_eq_rotl hcount, Row.patch_shr_eq_rotr hcount⟩

/-! ### Words of shifted rows (R156) -/

theorem clearPadding_getLsbD (w n j : Nat) (x : BitVec w) (p : Nat) :
    (clearPadding w n j x).getLsbD p = (decide (p < w) && decide (j * w + p < n) && x.getLsbD p) := by
  rw [clearPadding, BitVec.getLsbD_setWidth, BitVec.getLsbD_setWidth, ← Bool.and_assoc]
  congr 3
  rw [Nat.lt_sub_iff_add_lt']

/-- The two source words of a left-shifted word show the row's bits `k` below: for the first `k` positions those at the top
of the previous word. -/
theorem shlWord_getLsbD (hk : k ≤ w) (j : Nat) {p : Nat} (hp : p < w) :
    (shlWord w (r.word w) k j).getLsbD p = (decide (k ≤ j * w + p) && r.bit (j * w + p - k)) := by
  rw [shlWord, BitVec.getLsbD_or, BitVec.getLsbD_shiftLeft, Row.word_getLsbD]
  cases j with
  | zero =>
    by_cases hlow : p < k
    · simp [hlow, hp, Nat.not_le.mpr hlow]
    · simp [hlow, hp, Nat.le_of_not_lt hlow, Nat.lt_of_le_of_lt (Nat.sub_le p k) hp]
  | succ j =>
    have hge : k ≤ (j + 1) * w + p := (hk.trans (Nat.le_mul_of_pos_left w j.succ_pos)).trans (Nat.le_add_right _ p)
    rw [if_neg j.succ_ne_zero, Nat.add_sub_cancel, BitVec.getLsbD_ushiftRight, Row.word_getLsbD, decide_eq_true hge,
      Nat.succ_mul]
    by_cases hlow : p < k
    · simp [hlow, show w - k + p < w by omega, show j * w + (w - k + p) = j * w + w + p - k by omega]
    · simp [hlow, hp, show ¬w - k + p < w by omega, show p - k < w by omega,
        show j * w + w + (p - k) = j * w + w + p - k by omega]

/-- The two source words of a right-shifted word show the row's bits `k` above: for the last `k` positions those at the
bottom of the next word. -/
theorem shrWord_getLsbD (hk : k ≤ w) (j : Nat) {p : Nat} (hp : p < w) :
    (shrWord w (r.word w) k j).getLsbD p = r.bit (j * w + p + k) := by
  rw [shrWord, BitVec.getLsbD_or, BitVec.getLsbD_ushiftRight, BitVec.getLsbD_shiftLeft, Row.word_getLsbD,
    Row.word_getLsbD, Nat.succ_mul]
  by_cases hhigh : p < w - k
  · simp [hhigh, show k + p < w by omega, show j * w + (k + p) = j * w + p + k by omega]
  · simp [hhigh, hp, show ¬k + p < w by omega, show p - (w - k) < w by omega,
      show j * w + w + (p - (w - k)) = j * w + p + k by omega]

/-- Settles O58, position by position of the word. -/
theorem wordShiftsRealiseRowShifts : Obligations.WordShiftsRealiseRowShifts := by
  intro w k r _ _ hk j _
  constructor
  · refine BitVec.eq_of_getLsbD_eq fun p hp => ?_
    rw [Row.word_getLsbD, Row.shl_bit, clearPadding_getLsbD, shlWord_getLsbD hk j hp, Bool.and_assoc, Bool.and_assoc]
  · refine BitVec.eq_of_getLsbD_eq fun p hp => ?_
    rw [Row.word_getLsbD, Row.shr_bit, clearPadding_getLsbD, shrWord_getLsbD hk j hp]
    by_cases hpad : j * w + p < r.count
    · simp [hpad]
    · simp [hpad, Row.bit_of_le r (j * w + p + k) (by omega)]

end Sys2Proof.Machine
end

section
/-!
SUPPORT. The row commands (40_row_storage sections 1 to 6): what each writes to a running block, where its checks fault, and the
obligations that follow.
-/

namespace Sys2Proof.Machine

open Sys2Proof.Safety

variable {s : State} {d src : Slot} {a b r : Row} {i : Instr} {f : FaultCode} {k : Result} {n : Nat}

/-! ### What a row command writes -/

theorem legalCount_iff : legalCount s n = true ↔ 1 ≤ n ∧ n ≤ s.params.maxWidth := by simp [legalCount]

theorem legalShift_iff : legalShift s n = true ↔ 0 < n ∧ n ≤ s.params.wordWidth := by simp [legalShift]

/-- A write to a slot that has an entry, and a response, change nothing else (R19, R65). -/
theorem wroteOnly_writeSlot (h : s.mem.has d = true) (v : Row) :
    WroteOnly d v s ((s.writeSlot d v).setResponse ⟨true, 0⟩) :=
  ⟨Memory.read_write_same s.mem d v h, fun e he => Memory.read_write_other s.mem d e v he,
    ⟨rfl, rfl, rfl, rfl, rfl, rfl, rfl, rfl, rfl, rfl, rfl⟩, rfl, rfl, rfl⟩

/-- ROW_CREATE and ROW_RANDOM write their row (R134, R136). -/
theorem createRow_wrote (j : Nat) (v : Row) (hm : StorageWf s) (hrun : Running s) (hd : ¬SlotMissing s d) (hn : 1 ≤ n)
    (hmax : n ≤ s.params.maxWidth) (hfit : d.space ≠ .t → n = s.w) :
    ∃ t, createRow d n v s (s.takeDraws j) = .next t ∧ WroteOnly d v (s.takeDraws j) t :=
  have hex := slotExists_of_not_missing hd
  ⟨_, createRow_done d n v _ hrun.2 hrun.1 hex (legalCount_iff.2 ⟨hn, hmax⟩) (countFits_of_count hfit),
    wroteOnly_writeSlot (s := s.takeDraws j) (has_of_slotExists hm hex) v⟩

/-- ROW_AND, ROW_OR and ROW_XOR write the combination of the two rows (R144). -/
theorem combineRows_wrote (op : Row → Row → Row) (hrun : Running s) (hd : ¬SlotMissing s d) (hsrc : ¬SlotMissing s src)
    (ha : s.mem.read d = some a) (hb : s.mem.read src = some b) (hc : a.count = b.count) :
    ∃ t, combineRows op d src s = .next t ∧ WroteOnly d (op a b) s t :=
  ⟨_, combineRows_done op d src a b hrun.2 hrun.1 (slotExists_of_not_missing hd) (slotExists_of_not_missing hsrc) ha hb hc,
    wroteOnly_writeSlot (Memory.has_of_read _ _ _ ha) _⟩

/-- ROW_NOT and ROW_COPY write what they make of the source (R148, R150). -/
theorem replaceRow_wrote (op : Row → Row) (hm : StorageWf s) (hrun : Running s) (hd : ¬SlotMissing s d)
    (hsrc : ¬SlotMissing s src) (hb : s.mem.read src = some b) (hfit : d.space ≠ .t → b.count = s.w) :
    ∃ t, replaceRow op d src s = .next t ∧ WroteOnly d (op b) s t :=
  have hex := slotExists_of_not_missing hd
  ⟨_, replaceRow_done op d src b hrun.2 hrun.1 hex (slotExists_of_not_missing hsrc) hb (countFits_of_count hfit),
    wroteOnly_writeSlot (has_of_slotExists hm hex) _⟩

/-- ROW_SHL and ROW_SHR write the shifted row, for every legal amount (R152). -/
theorem shiftRow_wrote (op : Row → Nat → Row) (hrun : Running s) (hd : ¬SlotMissing s d) (hr : s.mem.read d = some r)
    (hpos : 0 < n) (hle : n ≤ s.params.wordWidth) :
    ∃ t, shiftRow op d n s = .next t ∧ WroteOnly d (op r n) s t :=
  ⟨_, shiftRow_done op d n r hrun.2 hrun.1 (slotExists_of_not_missing hd) hr (legalShift_iff.2 ⟨hpos, hle⟩),
    wroteOnly_writeSlot (Memory.has_of_read _ _ _ hr) _⟩

/-- ROW_SET writes the row with one bit replaced (R141). -/
theorem execRowSet_wrote (x : BitSource) (hrun : Running s) (hd : ¬SlotMissing s d) (hr : s.mem.read d = some r)
    (hn : n < r.count) :
    ∃ t, exec (.rowSet d n x) s = .next t ∧ WroteOnly d (r.setBit n (bitValue s x)) s t :=
  ⟨_, execRowSet_done d n x r hrun.2 hrun.1 (slotExists_of_not_missing hd) hr hn,
    wroteOnly_writeSlot (Memory.has_of_read _ _ _ hr) _⟩

/-- ROW_GET reads a bit of a valid slot into BREG and the response (R140). -/
theorem execRowGet_running (hrun : Running s) (hd : ¬SlotMissing s d) (hr : s.mem.read d = some r) (hn : n < r.count) :
    exec (.rowGet d n) s = .next ((s.setBreg (r.bit n)).setResponse ⟨true, valueOfBit (r.bit n)⟩) :=
  execRowGet_done d n r hrun.2 hrun.1 (slotExists_of_not_missing hd) hr hn

/-- A bit as a response value is the number 1 or 0 (R104). -/
theorem valueOfBit_eq (x : Bool) : valueOfBit x = if x then 1 else 0 := by cases x <;> rfl

/-! ### The obligations on the row commands' effects -/

/-- Settles O41, by `createRow_wrote`. -/
theorem rowCreateMakesZeroRow : Obligations.RowCreateMakesZeroRow := fun _ _ n hm hrun hd hn hmax hfit =>
  createRow_wrote 0 (Row.zeros n) hm hrun hd hn hmax hfit

/-- Settles O42, by `createRow_wrote` with one draw taken. -/
theorem rowRandomDrawsARow : Obligations.RowRandomDrawsARow := by
  intro s d n hm hrun hd hn hmax hfit
  obtain ⟨t, ht, hwrote⟩ := createRow_wrote 1 (s.draw 0 n) hm hrun hd hn hmax hfit
  obtain ⟨-, -, -, -, hdraws : t.draws = s.draws + 1, -⟩ := id hwrote
  refine ⟨t, ht, hdraws, ?_⟩
  rw [hdraws]
  exact hwrote

/-- Settles O43, by `execRowGet_running`. -/
theorem rowGetReadsOneBit : Obligations.RowGetReadsOneBit := by
  intro s d n r hrun hd hr hn
  refine ⟨_, execRowGet_running hrun hd hr hn, rfl, ?_, fun _ => rfl,
    ⟨rfl, rfl, rfl, rfl, rfl, rfl, rfl, rfl, rfl, rfl, rfl⟩, rfl⟩
  rw [Responds, State.setResponse_response, valueOfBit_eq]
  rfl

/-- Settles O44, by `execRowSet_wrote`. -/
theorem rowSetWritesOneBit : Obligations.RowSetWritesOneBit := by
  intro s d n x r hrun hd hr hn
  obtain ⟨t, ht, hwrote⟩ := execRowSet_wrote x hrun hd hr hn
  have hbit : (r.setBit n (bitValue s x)).bit n = bitValue s x := by simp [hn]
  refine ⟨t, _, ht, hwrote, rfl, fun y hy => ?_, fun hx => ?_, fun j hj => ?_⟩
  · rw [hbit, hy, bitValue]
  · rw [hbit, hx, bitValue]
  · rw [Row.setBit_bit, if_neg hj]
    by_cases hlt : j < r.count
    · simp [hlt]
    · simp [hlt, Row.bit_of_le r j (Nat.le_of_not_lt hlt)]

/-- Settles O45, by the completion of ROW_CLEAR. -/
theorem rowClearKeepsTheCount : Obligations.RowClearKeepsTheCount := fun _ d r hrun hd hr =>
  ⟨_, Row.zeros r.count, execRowClear_done d r hrun.2 hrun.1 (slotExists_of_not_missing hd) hr,
    wroteOnly_writeSlot (Memory.has_of_read _ _ _ hr) _, rfl, Row.zeros_bit r.count⟩

/-- Settles O46, by `combineRows_wrote` and the bits of each combination. -/
theorem rowBitwiseCommandsCombine : Obligations.RowBitwiseCommandsCombine := by
  intro s d src a b hrun hd hsrc ha hb hc
  have hwrote op := combineRows_wrote op hrun hd hsrc ha hb hc
  obtain ⟨t₁, hand, hw₁⟩ := hwrote Row.and
  obtain ⟨t₂, hor, hw₂⟩ := hwrote Row.or
  obtain ⟨t₃, hxor, hw₃⟩ := hwrote Row.xor
  exact ⟨⟨t₁, _, hand, hw₁, rfl, fun j _ => Row.and_bit a b j⟩, ⟨t₂, _, hor, hw₂, rfl, Row.or_bit a b⟩,
    t₃, _, hxor, hw₃, rfl, Row.xor_bit a b⟩

/-- Settles O47, by `replaceRow_wrote`. -/
theorem rowNotAndCopyReplace : Obligations.RowNotAndCopyReplace := by
  intro s d src b hm hrun hd hsrc hb hfit
  obtain ⟨t, hnot, hwrote⟩ := replaceRow_wrote Row.not hm hrun hd hsrc hb hfit
  exact ⟨⟨t, _, hnot, hwrote, rfl, fun j hj => by simp [hj]⟩, replaceRow_wrote (fun r => r) hm hrun hd hsrc hb hfit⟩

/-- Settles O48, by `shiftRow_wrote` and the bits of each shift. -/
theorem rowShiftsMask : Obligations.RowShiftsMask := by
  intro s d k r hrun hd hr hpos hle
  obtain ⟨t₁, hshl, hw₁⟩ := shiftRow_wrote Row.shl hrun hd hr hpos hle
  obtain ⟨t₂, hshr, hw₂⟩ := shiftRow_wrote Row.shr hrun hd hr hpos hle
  refine ⟨⟨t₁, _, hshl, hw₁, rfl, fun j hj => ?_⟩, t₂, _, hshr, hw₂, rfl, fun j _ => ?_⟩
  · by_cases hlow : k ≤ j
    · simp [hj, hlow]
    · simp [hlow]
  · rw [Row.shr_bit]
    split
    case isTrue => rfl
    case isFalse hpast => exact Row.bit_of_le r (j + k) (Nat.le_of_not_lt hpast)

/-- Settles O49: ROW_GET reads the row that ROW_SET left. -/
theorem rowGetSeesRowSet : Obligations.RowGetSeesRowSet := by
  intro s d n x r hrun hd hr hn
  obtain ⟨t, ht, hread, -⟩ := execRowSet_wrote x hrun hd hr hn
  refine ⟨t, ht, fun t' hrun' hd' hsame => ?_⟩
  have hget {j : Nat} (hj : j < r.count) := execRowGet_running hrun' hd' (hsame.trans hread) hj
  refine ⟨⟨_, hget hn, ?_⟩, fun j hj hne => ⟨_, _, hget hj, execRowGet_running hrun hd hr hj, ?_⟩⟩
  · simp [Responds, hn]
  · simp [hj, hne]

/-! ### A row combined with itself (R151) -/

theorem Row.and_self (r : Row) : r.and r = r :=
  Row.ext_bit _ _ rfl fun j _ => by simp

theorem Row.or_self (r : Row) : r.or r = r :=
  Row.ext_bit _ _ rfl fun j hj => by rw [Row.or_bit r r j hj, Bool.or_self]

theorem Row.xor_self (r : Row) : r.xor r = Row.zeros r.count :=
  Row.ext_bit _ _ rfl fun j hj => by rw [Row.xor_bit r r j hj, Bool.xor_self, Row.zeros_bit]

/-- Settles O50, by `combineRows_wrote` and `replaceRow_wrote` with one slot as destination and source. -/
theorem sameSlotIsReadBeforeTheWrite : Obligations.SameSlotIsReadBeforeTheWrite := by
  intro s d r hm hrun hd hr
  obtain ⟨-, hfit⟩ := rowFits_of_read (v := r) hm hr rfl
  have hcombine op := combineRows_wrote op hrun hd hd hr hr rfl
  have hreplace op := replaceRow_wrote op hm hrun hd hd hr hfit
  have hand := hcombine Row.and
  have hor := hcombine Row.or
  have hxor := hcombine Row.xor
  rw [Row.and_self] at hand
  rw [Row.or_self] at hor
  rw [Row.xor_self] at hxor
  exact ⟨hand, hor, hxor, hreplace Row.not, hreplace fun r => r⟩

/-! ### Where the checks fault (R310) -/

theorem faults_raiseFault (f : FaultCode) (s : State) : Faults f (raiseFault f s) s := ⟨_, rfl, rfl⟩

/-- A check that does not hold faults with its code (R20). -/
theorem faults_require_neg {c : Prop} [Decidable c] (hc : ¬c) : Faults f (require c f s k) s :=
  ⟨_, require_neg c f k hc, rfl⟩

/-- Behind a check that holds the fault of a later one shows. -/
theorem faults_require_pos {c : Prop} [Decidable c] {f' : FaultCode} (hc : c) (hk : Faults f k s) :
    Faults f (require c f' s k) s := by
  rwa [require_pos c f' k hc]

theorem faults_whenCreated (hrun : Running s) (hk : Faults f k s) : Faults f (whenCreated s k) s := by
  rwa [whenCreated_pos k hrun.2 hrun.1]

theorem faults_withSlot (hd : ¬SlotMissing s d) (hk : Faults f k s) : Faults f (withSlot s d k) s :=
  faults_require_pos (slotExists_of_not_missing hd) hk

theorem faults_withRow {k : Row → Result} (hr : s.mem.read d = some r) (hk : Faults f (k r) s) :
    Faults f (withRow s d k) s := by
  rwa [withRow_pos d k r hr]

theorem not_slotExists_of_missing (h : SlotMissing s d) : ¬slotExists s d = true := by
  obtain ⟨sp, j⟩ := d
  cases sp <;> simpa [slotExists, SlotMissing] using h

/-- A slot operand that names no slot faults (R130). -/
theorem faults_missing_slot (h : SlotMissing s d) : Faults .indexRange (withSlot s d k) s :=
  faults_require_neg (not_slotExists_of_missing h)

/-- The read of an invalid slot faults (R132). -/
theorem faults_invalid_slot {k : Row → Result} (h : s.mem.read d = none) : Faults .unallocatedRow (withRow s d k) s := by
  simpa only [withRow, h] using faults_raiseFault .unallocatedRow s

/-- The read of two slots of which one is invalid faults, whichever it is (R132). -/
theorem faults_invalid_of_two {k : Row → Row → Result} (h : s.mem.read d = none ∨ s.mem.read src = none) :
    Faults .unallocatedRow (withRow s d fun a => withRow s src (k a)) s := by
  cases hd : s.mem.read d with
  | none => exact faults_invalid_slot hd
  | some a =>
    have hsrc : s.mem.read src = none := h.resolve_left (by simp [hd])
    exact faults_withRow hd (faults_invalid_slot hsrc)

/-! ### The checks of every row command in their order (R310) -/

/-- The checks that a list of slots exists, in order. -/
def withSlots (s : State) (ds : List Slot) (k : Result) : Result := ds.foldr (withSlot s) k

/-- One missing slot faults, wherever it stands in the list. -/
theorem faults_missing_of_slots {ds : List Slot} (h : ∃ d ∈ ds, SlotMissing s d) :
    Faults .indexRange (withSlots s ds k) s := by
  induction ds with
  | nil => simp at h
  | cons e ds ih =>
    by_cases he : SlotMissing s e
    · exact faults_missing_slot he
    · exact faults_withSlot he (ih (by simpa [he] using h))

theorem faults_withSlots {ds : List Slot} (h : ∀ d ∈ ds, ¬SlotMissing s d) (hk : Faults f k s) :
    Faults f (withSlots s ds k) s := by
  induction ds with
  | nil => exact hk
  | cons e ds ih =>
    obtain ⟨he, hds⟩ := List.forall_mem_cons.1 h
    exact faults_withSlot he (ih hds)

/-- Only row commands have slot operands (R93, R95, R96). -/
theorem port_of_mem_namedSlots (h : d ∈ namedSlots i) : i.opcode.port = .row := by
  cases i with
  | rowCreate | rowRandom | rowGet | rowSet | rowClear | rowAnd | rowOr | rowXor | rowNot | rowCopy | rowShl | rowShr => rfl
  | _ => exact absurd h List.not_mem_nil

theorem mem_namedSlots_of_mem_readSlots (h : d ∈ readSlots i) : d ∈ namedSlots i := by
  cases i with
  | rowNot | rowCopy => exact List.mem_cons_of_mem _ h
  | rowGet | rowSet | rowClear | rowAnd | rowOr | rowXor | rowShl | rowShr => exact h
  | _ => exact absurd h List.not_mem_nil

/-- A row command checks the fault state and CREATED, then that its slots exist, then that those it reads are valid, and only
then anything else (R130, R132, R310). -/
theorem exec_checks_slots_first (hport : i.opcode.port = .row) (s : State) :
    ∃ k, exec i s = whenCreated s (withSlots s (namedSlots i) k) ∧
      ((∃ d ∈ readSlots i, s.mem.read d = none) → Faults .unallocatedRow k s) := by
  cases i with
  | rowCreate | rowRandom => exact ⟨_, rfl, fun ⟨_, hd, _⟩ => absurd hd List.not_mem_nil⟩
  | rowGet | rowSet | rowClear | rowNot | rowCopy | rowShl | rowShr =>
    exact ⟨_, rfl, fun h => faults_invalid_slot (by simpa [readSlots] using h)⟩
  | rowAnd | rowOr | rowXor => exact ⟨_, rfl, fun h => faults_invalid_of_two (by simpa [readSlots] using h)⟩
  | _ => exact absurd hport nofun

/-- Settles O51, by the order of the checks. -/
theorem missingSlotsFault : Obligations.MissingSlotsFault := by
  intro i s hrun hmissing
  obtain ⟨d, hd, -⟩ := id hmissing
  obtain ⟨k, hexec, -⟩ := exec_checks_slots_first (port_of_mem_namedSlots hd) s
  rw [hexec]
  exact faults_whenCreated hrun (faults_missing_of_slots hmissing)

/-- Settles O52, by the order of the checks and the canonical form of G. -/
theorem invalidSlotsFault : Obligations.InvalidSlotsFault := by
  refine ⟨fun i s _ hrun hslots hinvalid => ?_, fun s y hm hy => ?_⟩
  · obtain ⟨d, hd, -⟩ := id hinvalid
    obtain ⟨k, hexec, hk⟩ := exec_checks_slots_first (port_of_mem_namedSlots (mem_namedSlots_of_mem_readSlots hd)) s
    rw [hexec]
    exact faults_whenCreated hrun (faults_withSlots hslots (hk hinvalid))
  · obtain ⟨hlen, hcount⟩ := gridFits_of_storageWf hm
    exact ⟨_, Memory.read_g s.mem s.w y (hlen ▸ hy), gridRow_count _ _ _ hcount⟩

/-! ### Immediates and counts out of range (R131, R133, R138, R144, R152) -/

section
variable (hrun : Running s) (hd : ¬SlotMissing s d)
include hrun hd

/-- A count of 0 or above MAX_WIDTH faults (R133). -/
theorem createRow_badDimension (v : Row) (t : State) (hn : n = 0 ∨ s.params.maxWidth < n) :
    Faults .badDimension (createRow d n v s t) s :=
  faults_whenCreated hrun <| faults_withSlot hd <| faults_require_neg (by rw [legalCount_iff]; omega)

/-- A legal count that does not fit the slot faults (R131). -/
theorem createRow_countMismatch (v : Row) (t : State) (hn : 1 ≤ n) (hmax : n ≤ s.params.maxWidth)
    (hfit : ¬countFits s d n = true) : Faults .countMismatch (createRow d n v s t) s :=
  faults_whenCreated hrun <| faults_withSlot hd <| faults_require_pos (legalCount_iff.2 ⟨hn, hmax⟩) <|
    faults_require_neg hfit

/-- Rows of different counts do not combine (R144). -/
theorem combineRows_countMismatch (op : Row → Row → Row) (hsrc : ¬SlotMissing s src) (ha : s.mem.read d = some a)
    (hb : s.mem.read src = some b) (hc : a.count ≠ b.count) : Faults .countMismatch (combineRows op d src s) s :=
  faults_whenCreated hrun <| faults_withSlot hd <| faults_withSlot hsrc <| faults_withRow ha <| faults_withRow hb <|
    faults_require_neg hc

/-- A source whose count does not fit the destination faults (R131). -/
theorem replaceRow_countMismatch (op : Row → Row) (hsrc : ¬SlotMissing s src) (hb : s.mem.read src = some b)
    (hfit : ¬countFits s d b.count = true) : Faults .countMismatch (replaceRow op d src s) s :=
  faults_whenCreated hrun <| faults_withSlot hd <| faults_withSlot hsrc <| faults_withRow hb <| faults_require_neg hfit

/-- A shift amount of 0 or above W faults, whatever the count (R152). -/
theorem shiftRow_shiftRange (op : Row → Nat → Row) (hr : s.mem.read d = some r) (hn : n = 0 ∨ s.params.wordWidth < n) :
    Faults .shiftRange (shiftRow op d n s) s :=
  faults_whenCreated hrun <| faults_withSlot hd <| faults_withRow hr <| faults_require_neg (by rw [legalShift_iff]; omega)

end

/-- Settles O53, check by check. -/
theorem immediateRangesAreChecked : Obligations.ImmediateRangesAreChecked := by
  intro s d hrun hd
  refine ⟨fun n hn => ⟨createRow_badDimension hrun hd _ _ hn, createRow_badDimension hrun hd _ _ hn⟩,
    fun r hr => ⟨fun n x hn => ?_, fun n hn => ⟨shiftRow_shiftRange hrun hd _ hr hn, shiftRow_shiftRange hrun hd _ hr hn⟩,
      fun n hpos hle => ?_⟩⟩
  · have hpast : ¬n < r.count := Nat.not_lt.mpr hn
    exact ⟨faults_whenCreated hrun <| faults_withSlot hd <| faults_withRow hr <| faults_require_neg hpast,
      faults_whenCreated hrun <| faults_withSlot hd <| faults_withRow hr <| faults_require_neg hpast⟩
  · obtain ⟨t₁, hshl, -, -, -, -, -, hresp₁⟩ := shiftRow_wrote Row.shl hrun hd hr hpos hle
    obtain ⟨t₂, hshr, -, -, -, -, -, hresp₂⟩ := shiftRow_wrote Row.shr hrun hd hr hpos hle
    exact ⟨⟨t₁, hshl, hresp₁⟩, t₂, hshr, hresp₂⟩

theorem not_countFits_of_ne (hspace : d.space ≠ .t) (hn : n ≠ s.w) : ¬countFits s d n = true := by
  obtain ⟨sp, j⟩ := d
  cases sp with
  | g | n => simpa [countFits] using hn
  | t => exact absurd rfl hspace

/-- Settles O54, command shape by command shape. -/
theorem countDisagreementsFault : Obligations.CountDisagreementsFault := by
  intro s d hrun hd
  refine ⟨fun src a b hsrc ha hb hc => ?_, fun hspace => ⟨fun n hn hmax hne => ?_, fun src b hsrc hb hne => ?_⟩⟩
  · have hfault op := combineRows_countMismatch hrun hd op hsrc ha hb hc
    exact ⟨hfault Row.and, hfault Row.or, hfault Row.xor⟩
  · have hfault v t := createRow_countMismatch hrun hd v t hn hmax (not_countFits_of_ne hspace hne)
    exact ⟨hfault _ _, hfault _ _⟩
  · have hfault op := replaceRow_countMismatch hrun hd op hsrc hb (not_countFits_of_ne hspace hne)
    exact ⟨hfault Row.not, hfault fun r => r⟩

end Sys2Proof.Machine
end

section
/-!
SUPPORT. The grid commands (41_grid_commands): the state a host command that uses the row port leaves, the cells it writes, the
faults before CREATE and of CREATE, the row-port realisations, and the obligations that follow.
-/

namespace Sys2Proof.Machine

open Sys2Proof.Safety

variable {s : State} {g : List Row} {τ : BitVec 64} {k n x y : Nat} {v : Bool} {val : Word}

/-! ### The state a host command leaves (R181, R355) -/

/-- The state after a host command that used the row port: the grid `g`, TIME `τ`, `k` draws taken, the response `val`. -/
def State.usedRows (s : State) (g : List Row) (τ : BitVec 64) (k : Nat) (val : Word) : State :=
  ((((s.setTime τ).setMem (s.mem.setGrid g)).takeDraws k).endRowUse).setResponse ⟨true, val⟩

theorem State.usedRows_read (s : State) (e : Slot) :
    (s.usedRows g τ k val).mem.read e = if e.space = .g then g[e.index]? else none := by
  change (s.mem.setGrid g).dropScratch.read e = _
  rw [Memory.dropScratch_read, Memory.setGrid_read]
  split <;> rfl

theorem scratchInvalid_usedRows : ScratchInvalid (s.usedRows g τ k val) :=
  ⟨fun _ => s.usedRows_read _, fun _ => s.usedRows_read _⟩

theorem sameRegisters_usedRows : SameRegisters { s with time := τ } (s.usedRows g τ k val) :=
  by simp [SameRegisters, State.usedRows]

theorem storageWf_usedRows (hm : StorageWf s) (hg : GridFits s g) : StorageWf (s.usedRows g τ k val) := by
  have hwf := Memory.dropScratch_wf _ _ _ _ _ (Memory.setGrid_wf _ _ _ _ _ hm g hg.1 hg.2)
  simpa [StorageWf, State.usedRows] using hwf

@[simp] theorem State.usedRows_w (s : State) : (s.usedRows g τ k val).w = s.w := by
  simp [State.usedRows]
@[simp] theorem State.usedRows_h (s : State) : (s.usedRows g τ k val).h = s.h := by
  simp [State.usedRows]

theorem running_usedRows (hrun : Running s) : Running (s.usedRows g τ k val) := by
  simpa [Running, State.usedRows] using hrun

/-! ### When the host commands run (R184 to R196) -/

theorem cellExists_iff : cellExists s x y = true ↔ x < s.w ∧ y < s.h := by simp [cellExists]

theorem execClear_done (hrun : Running s) :
    execClear s = .next (s.usedRows (List.replicate s.h (Row.zeros s.w)) 0 0 0) :=
  whenCreated_pos _ hrun.2 hrun.1

theorem execPutRandom_done (hrun : Running s) : execPutRandom s = .next (s.usedRows s.drawGrid s.time s.h 0) :=
  whenCreated_pos _ hrun.2 hrun.1

theorem execPutFixedSeed_done (hrun : Running s) (hw : 3 ≤ s.w) (hh : 3 ≤ s.h) :
    execPutFixedSeed s = .next (s.usedRows (seedGrid s.mem.g s.w) s.time 0 0) :=
  (whenCreated_pos _ hrun.2 hrun.1).trans (require_pos _ _ _ ⟨hw, hh⟩)

theorem execGetCell_done (hrun : Running s) (hx : x < s.w) (hy : y < s.h) :
    execGetCell x y s = .next (s.usedRows s.mem.g s.time 0 (valueOfBit (gridCell s.mem.g s.w x y))) :=
  (whenCreated_pos _ hrun.2 hrun.1).trans (require_pos _ _ _ (cellExists_iff.2 ⟨hx, hy⟩))

theorem execSetCell_done (hrun : Running s) (hx : x < s.w) (hy : y < s.h) :
    execSetCell x y v s = .next (s.usedRows (setGridCell s.mem.g s.w x y v) s.time 0 0) :=
  (whenCreated_pos _ hrun.2 hrun.1).trans (require_pos _ _ _ (cellExists_iff.2 ⟨hx, hy⟩))

theorem readRegister_done (hrun : Running s) (val : Word) :
    whenCreated s (respond val s) = .next { s with response := some ⟨true, val⟩ } :=
  whenCreated_pos _ hrun.2 hrun.1

/-- The cell commands fault on a cell outside the grid (R190, R192). -/
theorem faults_withCell {r : Result} (h : s.w ≤ x ∨ s.h ≤ y) : Faults .indexRange (withCell s x y r) s :=
  faults_require_neg (by rw [cellExists_iff]; omega)

/-! ### Several cells written (R188, R192) -/

/-- The grid with every listed cell set to `v`. -/
def setGridCells (w : Nat) (v : Bool) (g : List Row) (cells : List (Nat × Nat)) : List Row :=
  cells.foldl (fun acc c => setGridCell acc w c.1 c.2 v) g

theorem seedGrid_eq_setGridCells (g : List Row) (w : Nat) : seedGrid g w = setGridCells w true g seedCells := rfl

/-- The cells of a grid after a list of cells is written: the listed ones have the new value, every other one its old. -/
theorem setGridCells_cell {cells : List (Nat × Nat)} (hfit : GridFits s g) (hcells : ∀ c ∈ cells, c.2 < s.h)
    (hx : x < s.w) :
    gridCell (setGridCells s.w v g cells) s.w x y = if (x, y) ∈ cells then v else gridCell g s.w x y := by
  induction cells generalizing g with
  | nil => simp [setGridCells]
  | cons c cells ih =>
    obtain ⟨hc, hrest⟩ := List.forall_mem_cons.1 hcells
    have hstep := setGridCell_cell g s.w c.1 c.2 v hfit.2 (hfit.1 ▸ hc) x y hx
    have hfold : setGridCells s.w v g (c :: cells) = setGridCells s.w v (setGridCell g s.w c.1 c.2 v) cells := rfl
    rw [hfold, ih (hfit.setGridCell c.1 c.2 v) hrest, hstep]
    by_cases hmem : (x, y) ∈ cells
    · simp [hmem]
    · simp [hmem, Prod.ext_iff]

/-- The seed cells lie in every grid of at least 3x3 (R188, R358). -/
theorem seedCells_lt (hw : 3 ≤ s.w) (hh : 3 ≤ s.h) : ∀ c ∈ seedCells, c.1 < s.w ∧ c.2 < s.h := by
  have hsmall : ∀ c ∈ seedCells, c.1 < 3 ∧ c.2 < 3 := by decide
  exact fun c hc => ⟨(hsmall c hc).1.trans_le hw, (hsmall c hc).2.trans_le hh⟩

/-! ### The obligations on CLEAR, PUT_RANDOM and PUT_FIXED_SEED -/

/-- The same grid, TIME and response written again leave the same state, but for BREG and the count of free values. -/
theorem usedRows_usedRows (s : State) (g : List Row) (τ : BitVec 64) (k : Nat) (val : Word) :
    { (s.usedRows g τ k val).usedRows g τ k val with
      breg := (s.usedRows g τ k val).breg, draws := (s.usedRows g τ k val).draws } = s.usedRows g τ k val := by
  have hmem : ((s.mem.setGrid g).dropScratch.setGrid g).dropScratch = (s.mem.setGrid g).dropScratch := by
    simp [Memory.dropScratch, Memory.setGrid]
  simp only [State.usedRows, State.setResponse, State.endRowUse, State.takeDraws, State.setBreg, State.setMem,
    State.setTime, hmem]

/-- Settles O22: CLEAR writes the same grid, TIME and response again. -/
theorem clearTwiceEqualsOnce : Obligations.ClearTwiceEqualsOnce := by
  intro s hrun
  have hrun₁ : Running (s.usedRows (List.replicate s.h (Row.zeros s.w)) 0 0 0) := running_usedRows hrun
  have hclear := execClear_done hrun₁
  rw [State.usedRows_h, State.usedRows_w] at hclear
  have hread {t : State} (ht : Running t) (hτ : t.time = 0) : ∃ t', exec .readGen t = .next t' ∧ Responds t' true 0 :=
    ⟨_, readRegister_done ht t.time, by rw [hτ]⟩
  exact ⟨_, _, execClear_done hrun, hclear, usedRows_usedRows _ _ _ _ _,
    hread hrun₁ rfl, hread (running_usedRows hrun₁) rfl⟩

/-- Settles O21, by the completion of CLEAR. -/
theorem clearKillsEveryCell : Obligations.ClearKillsEveryCell := by
  intro s hrun
  refine ⟨_, execClear_done hrun, rfl, fun y hy => ?_, scratchInvalid_usedRows, sameRegisters_usedRows, rfl⟩
  simp [State.usedRows_read, hy]

/-- Settles O23, by the completion of PUT_RANDOM. -/
theorem putRandomReplacesEveryRow : Obligations.PutRandomReplacesEveryRow := by
  intro s hrun
  refine ⟨_, execPutRandom_done hrun, fun y hy => ?_, Nat.le_succ _, scratchInvalid_usedRows, sameRegisters_usedRows, rfl⟩
  simp [State.usedRows_read, State.drawGrid, State.draw, hy]

/-- Settles O24, by the cells of `setGridCells`. -/
theorem putFixedSeedSetsFiveCells : Obligations.PutFixedSeedSetsFiveCells := by
  intro s hrun hm
  have hfit := gridFits_of_storageWf hm
  refine ⟨fun hw hh => ⟨_, execPutFixedSeed_done hrun hw hh, fun x y hx _ => ?_,
    storageWf_usedRows hm hfit.seedGrid, scratchInvalid_usedRows, sameRegisters_usedRows, rfl⟩, fun hsmall => ?_⟩
  · change gridCell (seedGrid s.mem.g s.w) s.w x y = (decide ((x, y) ∈ seedCells) || gridCell s.mem.g s.w x y)
    rw [seedGrid_eq_setGridCells, setGridCells_cell hfit (fun c hc => (seedCells_lt hw hh c hc).2) hx]
    by_cases hseed : (x, y) ∈ seedCells <;> simp [hseed]
  · exact faults_whenCreated hrun (faults_require_neg (by omega))

/-! ### The obligations on GET_CELL, SET_CELL and the register reads -/

theorem gridRow_of_read {m : Memory} {r : Row} (h : m.read ⟨.g, y⟩ = some r) : gridRow m.g w y = r := by
  rw [gridRow, show m.g[y]? = some r from h, Option.getD_some]

/-- Settles O25, by the completion of GET_CELL. -/
theorem getCellReturnsTheCell : Obligations.GetCellReturnsTheCell := by
  intro s x y hrun
  refine ⟨fun r hx hy hr => ⟨_, execGetCell_done hrun hx hy, ?_, fun e => ?_, sameRegisters_usedRows⟩,
    fun hout => faults_whenCreated hrun (faults_withCell hout)⟩
  · rw [gridCell, gridRow_of_read hr, valueOfBit_eq]
    rfl
  · exact Memory.dropScratch_read s.mem e

/-- Settles O26, by the cells of a grid after one is written. -/
theorem setCellWritesOneCell : Obligations.SetCellWritesOneCell := by
  intro s x y v hrun hm
  have hfit := gridFits_of_storageWf hm
  refine ⟨fun hx hy => ⟨_, execSetCell_done hrun hx hy, fun x' y' hx' _ => ?_,
    storageWf_usedRows hm (hfit.setGridCell x y v), scratchInvalid_usedRows, sameRegisters_usedRows, rfl⟩,
    fun hout => faults_whenCreated hrun (faults_withCell hout)⟩
  exact setGridCell_cell s.mem.g s.w x y v hfit.2 (hfit.1 ▸ hy) x' y' hx'

/-- Settles O27: the reads that need a grid by `readRegister_done`, the two status reads by what they answer. -/
theorem readCommandsReturnTheRegisters : Obligations.ReadCommandsReturnTheRegisters := fun _ =>
  ⟨fun hrun => ⟨readRegister_done hrun _, readRegister_done hrun _, readRegister_done hrun _⟩, rfl, rfl⟩

/-! ### Faults of CREATE and before it (R130, R180, R181) -/

/-- Settles O19, check by check. -/
theorem createFaults : Obligations.CreateFaults := by
  intro s w h nbh hf
  have hexec : exec (.create w h nbh) s = require (s.created = false) .alreadyCreated s
      (require (1 ≤ w ∧ w ≤ s.params.maxWidth) .badDimension s
        (require (1 ≤ h ∧ h ≤ s.params.maxHeight) .badDimension s (respond 0 (s.construct w h nbh)))) :=
    whenRunning_pos _ hf
  rw [hexec]
  refine ⟨fun hc => faults_require_neg (by simp [hc]), fun hc hdim => faults_require_pos hc ?_⟩
  by_cases hw : 1 ≤ w ∧ w ≤ s.params.maxWidth
  · exact faults_require_pos hw (faults_require_neg (by omega))
  · exact faults_require_neg hw

/-- Every command but CREATE and the two status reads checks the fault state and CREATED before anything else (R310). -/
theorem exec_checks_created {i : Instr} (hcreate : i.opcode ≠ .create) (hstatus : i.opcode ≠ .readStatus)
    (hfcmd : i.opcode ≠ .readFcmd) (s : State) : ∃ r, exec i s = whenCreated s r := by
  cases i with
  | create => exact absurd rfl hcreate
  | readStatus => exact absurd rfl hstatus
  | readFcmd => exact absurd rfl hfcmd
  | _ => exact ⟨_, rfl⟩

theorem faults_notCreated {r : Result} (hf : s.faulted = false) (hc : s.created = false) :
    Faults .notCreated (whenCreated s r) s := by
  rw [whenCreated, whenRunning_pos _ hf]
  exact faults_require_neg (by simp [hc])

/-- Settles O20, by the first checks of the commands. -/
theorem commandsBeforeCreateFault : Obligations.CommandsBeforeCreateFault := by
  intro i s hc hf hcreate hstatus hfcmd
  obtain ⟨r, hexec⟩ := exec_checks_created hcreate hstatus hfcmd s
  rw [hexec]
  exact faults_notCreated hf hc

/-! ### The row-port realisations (R181, R184 to R192) -/

/-- The state after row commands that wrote grid rows: the grid is `g`, `k` more free values are taken, the last response is
`resp`. -/
def State.ranRows (s : State) (g : List Row) (k : Nat) (resp : Option Response) : State :=
  { s with mem := s.mem.setGrid g, draws := s.draws + k, response := resp }

/-- The end of row use makes of such a state the one the host command leaves (R181). -/
theorem respond_setTime_ranRows (resp : Option Response) :
    respond val (((s.ranRows g k resp).setTime τ).endRowUse) = .next (s.usedRows g τ k val) := rfl

theorem respond_ranRows (resp : Option Response) :
    respond val (s.ranRows g k resp).endRowUse = .next (s.usedRows g s.time k val) :=
  respond_setTime_ranRows resp

theorem respond_readBit (b : Bool) (resp : Response) :
    respond val ((s.setBreg b).setResponse resp).endRowUse = .next (s.usedRows s.mem.g s.time 0 val) := rfl

/-- On the way a grid row can be read as it stands in the grid. -/
theorem ranRows_read (resp : Option Response) (hfit : GridFits s g) (hy : y < s.h) :
    (s.ranRows g k resp).mem.read (slotG y) = some (gridRow g s.w y) :=
  Memory.read_g (s.mem.setGrid g) s.w y (hfit.1 ▸ hy)

theorem ranRows_slotExists (resp : Option Response) (hy : y < s.h) :
    slotExists (s.ranRows g k resp) (slotG y) = true := decide_eq_true hy

/-- ROW_SETs on cells of the grid set these cells (R141, R192). -/
theorem runProgram_setCells {cells : List (Nat × Nat)} (resp : Option Response) (hrun : Running s) (hfit : GridFits s g)
    (hcells : ∀ c ∈ cells, c.1 < s.w ∧ c.2 < s.h) :
    ∃ resp', runProgram (cells.map fun c => .rowSet (slotG c.2) c.1 (.imm v)) (s.ranRows g 0 resp) =
      .next (s.ranRows (setGridCells s.w v g cells) 0 resp') := by
  induction cells generalizing g resp with
  | nil => exact ⟨resp, rfl⟩
  | cons c cells ih =>
    obtain ⟨⟨hx, hy⟩, hrest⟩ := List.forall_mem_cons.1 hcells
    have hcount : (gridRow g s.w c.2).count = s.w := gridRow_count g s.w c.2 hfit.2
    have hset : exec (.rowSet (slotG c.2) c.1 (.imm v)) (s.ranRows g 0 resp) =
        .next (s.ranRows (setGridCell g s.w c.1 c.2 v) 0 (some ⟨true, 0⟩)) :=
      execRowSet_done _ c.1 (.imm v) _ hrun.2 hrun.1 (ranRows_slotExists resp hy) (ranRows_read resp hfit hy)
        (hcount.symm ▸ hx)
    obtain ⟨resp', hrest'⟩ := ih (some ⟨true, 0⟩) (hfit.setGridCell c.1 c.2 v) hrest
    exact ⟨resp', by rw [List.map_cons, runProgram, hset]; exact hrest'⟩

/-- The grid whose first `n` rows have been rewritten to `row 0`, `row 1`, ... -/
def rewriteRows (row : Nat → Row) (n : Nat) (g : List Row) : List Row := (List.range n).map row ++ g.drop n

theorem rewriteRows_zero (row : Nat → Row) : rewriteRows row 0 g = g := rfl

theorem rewriteRows_length (row : Nat → Row) : rewriteRows row g.length g = (List.range g.length).map row := by
  simp [rewriteRows]

theorem rewriteRows_set (row : Nat → Row) (hn : n < g.length) :
    (rewriteRows row n g).set n (row n) = rewriteRows row (n + 1) g := by
  have hset : (g.drop n).set 0 (row n) = row n :: g.drop (n + 1) := by
    rw [List.drop_eq_getElem_cons hn, List.set_cons_zero]
  simp [rewriteRows, List.range_succ, List.set_append_right, hset]

theorem GridFits.rewriteRows {row : Nat → Row} (hfit : GridFits s g) (hrow : ∀ y, (row y).count = s.w) (hn : n ≤ s.h) :
    GridFits s (rewriteRows row n g) := by
  refine ⟨by simp [Machine.rewriteRows, hfit.1, hn], fun r hr => ?_⟩
  rcases List.mem_append.1 hr with hr | hr
  · obtain ⟨y, -, rfl⟩ := List.mem_map.1 hr
    exact hrow y
  · exact hfit.2 r (List.mem_of_mem_drop hr)

/-- One row command for each row of the grid, from row 0 on, which takes `k` free values and rewrites its row, rewrites the
grid: by induction on the rows done. -/
theorem runProgram_rewriteRows {cmd : Nat → Instr} {row : Nat → Row} (hfit : GridFits s s.mem.g)
    (hrow : ∀ y, (row y).count = s.w)
    (hcmd : ∀ y g resp, y < s.h → GridFits s g →
      exec (cmd y) (s.ranRows g (y * k) resp) = .next (s.ranRows (g.set y (row y)) (y * k + k) (some ⟨true, 0⟩)))
    (hn : n ≤ s.h) :
    ∃ resp, runProgram ((List.range n).map cmd) s = .next (s.ranRows (rewriteRows row n s.mem.g) (n * k) resp) := by
  induction n with
  | zero => exact ⟨s.response, by rw [rewriteRows_zero, Nat.zero_mul]; rfl⟩
  | succ n ih =>
    obtain ⟨resp, hprog⟩ := ih (by omega)
    have hlast := hcmd n _ resp hn (hfit.rewriteRows hrow (n := n) (by omega))
    rw [rewriteRows_set row (hfit.1 ▸ hn), ← Nat.succ_mul] at hlast
    refine ⟨some ⟨true, 0⟩, ?_⟩
    rw [List.range_succ, List.map_append, runProgram_append hprog, List.map_singleton, runProgram, hlast]
    rfl

/-- The realisation of CLEAR makes every row zero (R184). -/
theorem runProgram_clear (hrun : Running s) (hfit : GridFits s s.mem.g) :
    ∃ resp, runProgram (realisation .clear s) s =
      .next (s.ranRows (List.replicate s.h (Row.zeros s.w)) 0 resp) := by
  have hcmd : ∀ y g resp, y < s.h → GridFits s g → exec (.rowClear (slotG y)) (s.ranRows g (y * 0) resp) =
      .next (s.ranRows (g.set y (Row.zeros s.w)) (y * 0 + 0) (some ⟨true, 0⟩)) := by
    intro y g resp hy hg
    have hdone := execRowClear_done (s := s.ranRows g (y * 0) resp) _ _ hrun.2 hrun.1 (ranRows_slotExists resp hy)
      (ranRows_read resp hg hy)
    rw [gridRow_count g s.w y hg.2] at hdone
    exact hdone
  obtain ⟨resp, hprog⟩ := runProgram_rewriteRows (row := fun _ => Row.zeros s.w) hfit (fun _ => rfl) hcmd le_rfl
  rw [← hfit.1, rewriteRows_length, hfit.1, List.map_const', List.length_range] at hprog
  exact ⟨resp, hprog⟩

/-- The realisation of PUT_RANDOM gives every row its own draw, in the order of the rows (R186, R187; log 5). -/
theorem runProgram_putRandom (hrun : Running s) (hw : 1 ≤ s.w ∧ s.w ≤ s.params.maxWidth) (hfit : GridFits s s.mem.g) :
    ∃ resp, runProgram (realisation .putRandom s) s = .next (s.ranRows s.drawGrid s.h resp) := by
  have hcmd : ∀ y g resp, y < s.h → GridFits s g → exec (.rowRandom (slotG y) s.w) (s.ranRows g (y * 1) resp) =
      .next (s.ranRows (g.set y (s.draw y s.w)) (y * 1 + 1) (some ⟨true, 0⟩)) := by
    intro y g resp hy _
    rw [Nat.mul_one]
    exact createRow_done _ s.w _ _ hrun.2 hrun.1 (ranRows_slotExists resp hy) (legalCount_iff.2 hw) (decide_eq_true rfl)
  obtain ⟨resp, hprog⟩ := runProgram_rewriteRows (row := fun y => s.draw y s.w) hfit (fun _ => rfl) hcmd le_rfl
  rw [← hfit.1, rewriteRows_length, hfit.1, Nat.mul_one] at hprog
  exact ⟨resp, hprog⟩

/-- The realisation of GET_CELL reads the cell into BREG (R190). -/
theorem runProgram_getCell (hrun : Running s) (hfit : GridFits s s.mem.g) (hx : x < s.w) (hy : y < s.h) :
    runProgram (realisation (.getCell x y) s) s =
      .next ((s.setBreg (gridCell s.mem.g s.w x y)).setResponse ⟨true, valueOfBit (gridCell s.mem.g s.w x y)⟩) := by
  have hcount : (gridRow s.mem.g s.w y).count = s.w := gridRow_count _ _ _ hfit.2
  have hget := execRowGet_done (slotG y) x _ hrun.2 hrun.1 (decide_eq_true hy)
    (Memory.read_g s.mem s.w y (hfit.1 ▸ hy)) (hcount.symm ▸ hx)
  rw [realisation, runProgram, exec, hget]
  rfl

/-- Settles O34, realisation by realisation: each leaves the grid its host command writes, and the end of row use leaves the
same state. -/
theorem rowRealisationsGiveTheHostCommands : Obligations.RowRealisationsGiveTheHostCommands := by
  intro s hinv hrun
  obtain ⟨-, hm, ⟨hdim, -⟩, -⟩ := hinv
  obtain ⟨hw1, hw2, -⟩ := hdim hrun.1
  have hfit := gridFits_of_storageWf hm
  refine ⟨?_, ?_, fun hw hh => ?_, fun x y hx hy => ⟨?_, fun v => ?_⟩⟩
  · obtain ⟨resp, hprog⟩ := runProgram_clear hrun hfit
    exact ⟨_, hprog, (execClear_done hrun).trans (respond_setTime_ranRows resp).symm⟩
  · obtain ⟨resp, hprog⟩ := runProgram_putRandom hrun ⟨hw1, hw2⟩ hfit
    exact ⟨_, hprog, (execPutRandom_done hrun).trans (respond_ranRows resp).symm⟩
  · obtain ⟨resp, hprog⟩ := runProgram_setCells s.response hrun hfit (seedCells_lt hw hh)
    exact ⟨_, hprog, (execPutFixedSeed_done hrun hw hh).trans (respond_ranRows resp).symm⟩
  · exact ⟨_, runProgram_getCell hrun hfit hx hy, (execGetCell_done hrun hx hy).trans (respond_readBit _ _).symm⟩
  · have hcell : ∀ c ∈ [(x, y)], c.1 < s.w ∧ c.2 < s.h := by simpa using ⟨hx, hy⟩
    obtain ⟨resp, hprog⟩ := runProgram_setCells s.response hrun hfit hcell
    exact ⟨_, hprog, (execSetCell_done hrun hx hy).trans (respond_ranRows resp).symm⟩

end Sys2Proof.Machine
end

section
/-!
SUPPORT. The neighbor counter (42_neighbor_counter): the adders at one position, the two reference networks, the planes as the
neighbors of a cell, and the obligations that follow.
-/

namespace Sys2Proof.Machine

/-! ### The adders at one position (R226) -/

section

variable {x y z : Row} {i : Nat}

@[simp] theorem fullAdder_sum_count (x y z : Row) : (fullAdder x y z).sum.count = x.count := rfl
@[simp] theorem fullAdder_carry_count (x y z : Row) : (fullAdder x y z).carry.count = x.count := rfl
@[simp] theorem halfAdder_sum_count (x y : Row) : (halfAdder x y).sum.count = x.count := rfl
@[simp] theorem halfAdder_carry_count (x y : Row) : (halfAdder x y).carry.count = x.count := rfl

theorem fullAdder_sum_bit (hi : i < x.count) : (fullAdder x y z).sum.bit i = (x.bit i ^^ y.bit i ^^ z.bit i) := by
  rw [fullAdder, Row.xor_bit (x.xor y) z i hi, Row.xor_bit x y i hi, Bool.xor_assoc]

theorem fullAdder_carry_bit (hi : i < x.count) :
    (fullAdder x y z).carry.bit i = ((x.bit i && y.bit i) || (z.bit i && (x.bit i ^^ y.bit i))) := by
  rw [fullAdder, Row.or_bit (x.and y) _ i hi, Row.and_bit, Row.and_bit, Row.xor_bit x y i hi]

theorem halfAdder_sum_bit (hi : i < x.count) : (halfAdder x y).sum.bit i = (x.bit i ^^ y.bit i) := Row.xor_bit x y i hi

theorem halfAdder_carry_bit : (halfAdder x y).carry.bit i = (x.bit i && y.bit i) := Row.and_bit x y i

/-- A full adder keeps the weighted sum of the bits at a position. -/
theorem fullAdder_adds (hi : i < x.count) :
    (x.bit i).toNat + (y.bit i).toNat + (z.bit i).toNat =
      ((fullAdder x y z).sum.bit i).toNat + 2 * ((fullAdder x y z).carry.bit i).toNat := by
  rw [fullAdder_sum_bit hi, fullAdder_carry_bit hi]
  cases x.bit i <;> cases y.bit i <;> cases z.bit i <;> rfl

/-- A half adder keeps the weighted sum of the bits at a position. -/
theorem halfAdder_adds (hi : i < x.count) :
    (x.bit i).toNat + (y.bit i).toNat =
      ((halfAdder x y).sum.bit i).toNat + 2 * ((halfAdder x y).carry.bit i).toNat := by
  rw [halfAdder_sum_bit hi, halfAdder_carry_bit]
  cases x.bit i <;> cases y.bit i <;> rfl

end

/-- Settles O35, by the adders' bits at the position. -/
theorem addersSumEachPosition : Obligations.AddersSumEachPosition := by
  intro n x y z hx _ _ i hi
  have hi' : i < x.count := hx.symm ▸ hi
  exact ⟨fullAdder_sum_bit hi', fullAdder_carry_bit hi', fullAdder_adds hi', halfAdder_sum_bit hi', halfAdder_carry_bit,
    halfAdder_adds hi'⟩

/-! ### The counter's masks (R227, R232) -/

@[simp] theorem planeCount_nil (x : Nat) : planeCount [] x = 0 := rfl

@[simp] theorem planeCount_cons (p : Row) (ps : List Row) (x : Nat) :
    planeCount (p :: ps) x = (p.bit x).toNat + planeCount ps x := rfl

theorem planeCount_perm {ps qs : List Row} (h : ps.Perm qs) (x : Nat) : planeCount ps x = planeCount qs x :=
  (h.map _).sum_eq

/-- The masks depend on the planes through their counts only. -/
theorem counter_congr {w : Nat} {ps qs : List Row} (h : ∀ x, planeCount ps x = planeCount qs x) :
    counter w ps = counter w qs := by
  simp only [counter, h]

/-- Settles O38: the count is a sum, and a sum does not depend on the order. -/
theorem counterIgnoresPlaneOrder : Obligations.CounterIgnoresPlaneOrder := fun _ _ _ hperm =>
  counter_congr (planeCount_perm hperm)

/-- Two masks of the counter's count with the counter's bits are the counter's. -/
theorem eq_counter_of_bits {w : Nat} {ps : List Row} {m : Masks} (h2 : m.eq2.count = w) (h3 : m.eq3.count = w)
    (heq2 : ∀ i < w, m.eq2.bit i = (planeCount ps i == 2)) (heq3 : ∀ i < w, m.eq3.bit i = (planeCount ps i == 3)) :
    m = counter w ps := by
  obtain ⟨e2, e3⟩ := m
  rw [counter, ← Row.tabulate_congr w _ _ heq2, ← Row.tabulate_congr w _ _ heq3, Masks.mk.injEq]
  exact ⟨h2 ▸ e2.eq_tabulate, h3 ▸ e3.eq_tabulate⟩

/-- Where the count is `ones + 2 * K` and `k` marks the positions with `K = 1`, the masks are `k & ~ones` and `k & ones`: the
argument of R230. -/
theorem onesAndTwos_eq_counter {w : Nat} {ps : List Row} (k ones : Row) (hk : k.count = w) (hones : ones.count = w)
    (K : Nat → Nat) (hcount : ∀ i < w, planeCount ps i = (ones.bit i).toNat + 2 * K i)
    (hkbit : ∀ i < w, k.bit i = (K i == 1)) :
    ({ eq2 := k.and ones.not, eq3 := k.and ones } : Masks) = counter w ps := by
  have heq2 : ∀ i < w, (k.and ones.not).bit i = (planeCount ps i == 2) := by
    intro i hi
    rw [Row.and_bit, Row.not_bit, decide_eq_true (hones.symm ▸ hi : i < ones.count), hkbit i hi, hcount i hi]
    cases ones.bit i <;> grind
  have heq3 : ∀ i < w, (k.and ones).bit i = (planeCount ps i == 3) := by
    intro i hi
    rw [Row.and_bit, hkbit i hi, hcount i hi]
    cases ones.bit i <;> grind
  exact eq_counter_of_bits hk hk heq2 heq3

/-! ### The reference networks (R229 to R231) -/

/-- The last level of the 8-neighbor network: two bits of weight 1 and one of weight 2 are 1 together. -/
theorem notAndXor_eq_sumIsOne (a b c : Bool) : (!c && (a ^^ b)) = (a.toNat + b.toNat + 2 * c.toNat == 1) := by
  cases a <;> cases b <;> cases c <;> rfl

theorem xor_eq_sumIsOne (a b : Bool) : (a ^^ b) = (a.toNat + b.toNat == 1) := by
  cases a <;> cases b <;> rfl

/-- R230: the adders keep the weighted sum level by level. -/
theorem mooreNetwork_eq_counter {w : Nat} (a0 a1 a2 a3 a4 a5 a6 a7 : Row) (h0 : a0.count = w) (h3 : a3.count = w)
    (h6 : a6.count = w) :
    mooreNetwork a0 a1 a2 a3 a4 a5 a6 a7 = counter w [a0, a1, a2, a3, a4, a5, a6, a7] := by
  unfold mooreNetwork
  extract_lets l0 l1 l2 ones tu k1
  refine onesAndTwos_eq_counter k1 ones.sum h0 h0
    (fun i => (tu.sum.bit i).toNat + (ones.carry.bit i).toNat + 2 * (tu.carry.bit i).toNat) (fun i hi => ?_)
    (fun i hi => ?_)
  all_goals have hi0 : i < a0.count := by omega
  · have hl0 := fullAdder_adds (y := a1) (z := a2) hi0
    have hl1 := fullAdder_adds (x := a3) (y := a4) (z := a5) (i := i) (by omega)
    have hl2 := halfAdder_adds (x := a6) (y := a7) (i := i) (by omega)
    have hones := fullAdder_adds (x := l0.sum) (y := l1.sum) (z := l2.sum) hi0
    have htu := fullAdder_adds (x := l0.carry) (y := l1.carry) (z := l2.carry) hi0
    simp only [planeCount_cons, planeCount_nil, l0, l1, l2, ones, tu] at hones htu ⊢
    omega
  · rw [Row.and_bit, Row.not_bit, decide_eq_true (show i < tu.carry.count from hi0), Bool.true_and,
      Row.xor_bit tu.sum ones.carry i hi0, notAndXor_eq_sumIsOne]

/-- R231: the adders keep the weighted sum, and the two carries are 1 together where they differ. -/
theorem vonNeumannNetwork_eq_counter {w : Nat} (b0 b1 b2 b3 : Row) (h0 : b0.count = w) :
    vonNeumannNetwork b0 b1 b2 b3 = counter w [b0, b1, b2, b3] := by
  unfold vonNeumannNetwork
  extract_lets l0 ones k1
  refine onesAndTwos_eq_counter k1 ones.sum h0 h0
    (fun i => (l0.carry.bit i).toNat + (ones.carry.bit i).toNat) (fun i hi => ?_) (fun i hi => ?_)
  all_goals have hi0 : i < b0.count := by omega
  · have hl0 := fullAdder_adds (y := b1) (z := b2) hi0
    have hones := halfAdder_adds (x := l0.sum) (y := b3) hi0
    simp only [planeCount_cons, planeCount_nil, l0, ones] at hones ⊢
    omega
  · rw [Row.xor_bit l0.carry ones.carry i hi0, xor_eq_sumIsOne]

/-- Settles O37, network by network. -/
theorem networksMeetTheCounter : Obligations.NetworksMeetTheCounter :=
  fun _ p0 p1 p2 p3 p4 p5 p6 p7 h0 _ _ h3 _ _ h6 _ =>
    ⟨mooreNetwork_eq_counter p0 p1 p2 p3 p4 p5 p6 p7 h0 h3 h6, vonNeumannNetwork_eq_counter p0 p1 p2 p3 h0⟩

/-! ### The planes as the neighbors of a cell (R220 to R225) -/

section

variable {g : List Row} {w x : Nat}

/-- The west plane of a grid row holds the cells at `dx = -1`. -/
theorem gridRow_west_bit (hg : ∀ r ∈ g, r.count = w) (hx : x < w) (y : Nat) :
    (gridRow g w y).west.bit x = gridCell g w (wrap ((x : Int) + (-1)) w) y := by
  rw [Row.west_bit, gridRow_count g w y hg, decide_eq_true hx, Bool.true_and, gridCell]

/-- The east plane of a grid row holds the cells at `dx = 1`. -/
theorem gridRow_east_bit (hg : ∀ r ∈ g, r.count = w) (hx : x < w) (y : Nat) :
    (gridRow g w y).east.bit x = gridCell g w (wrap ((x : Int) + 1) w) y := by
  rw [Row.east_bit, gridRow_count g w y hg, decide_eq_true hx, Bool.true_and, gridCell]

/-- A grid row as a plane holds the cells at `dx = 0`. -/
theorem gridRow_bit (hx : x < w) (y : Nat) : (gridRow g w y).bit x = gridCell g w (wrap ((x : Int) + 0) w) y := by
  rw [Int.add_zero, wrap_of_lt x w hx, gridCell]

/-- The planes hold the neighbors, in the order of R222 and R223. -/
theorem planes_bits (nbh : Neighborhood) {h y : Nat} (hg : ∀ r ∈ g, r.count = w) (hx : x < w) (hy : y < h) :
    (planes nbh g w h y).map (fun r => r.bit x) = (offsets nbh).map (neighborCell g w h x y) := by
  have hrow : wrap ((y : Int) + 0) h = y := by rw [Int.add_zero, wrap_of_lt y h hy]
  cases nbh <;>
    simp only [planes, planesOf, offsets, northRow, southRow, neighborCell, List.map_cons, List.map_nil,
      gridRow_west_bit hg hx, gridRow_east_bit hg hx, gridRow_bit hx, hrow, Int.sub_eq_add_neg]

end

theorem planeCount_eq_sum (ps : List Row) (x : Nat) :
    planeCount ps x = ((ps.map fun r => r.bit x).map Bool.toNat).sum := by
  rw [List.map_map]
  rfl

theorem neighborCount_eq_sum (nbh : Neighborhood) (g : List Row) (w h x y : Nat) :
    neighborCount nbh g w h x y = (((offsets nbh).map (neighborCell g w h x y)).map Bool.toNat).sum := by
  rw [List.map_map]
  rfl

/-- Each offset adds at most 1 to the count. -/
theorem neighborCount_le (nbh : Neighborhood) (g : List Row) (w h x y : Nat) :
    neighborCount nbh g w h x y ≤ (offsets nbh).length := by
  have hle := List.sum_le_card_nsmul (((offsets nbh).map (neighborCell g w h x y)).map Bool.toNat) 1
    (List.forall_mem_map.2 fun b _ => Bool.toNat_le b)
  simpa only [neighborCount_eq_sum, List.length_map, smul_eq_mul, Nat.mul_one] using hle

/-- Settles O36: the planes hold the neighbors, so the two sums are one. -/
theorem planesSumToTheNeighborCount : Obligations.PlanesSumToTheNeighborCount := by
  intro nbh g w h _ hg x y hx hy
  have hbits := planes_bits nbh hg hx hy
  refine ⟨hbits, ?_, neighborCount_le .moore g w h x y, neighborCount_le .vonNeumann g w h x y⟩
  rw [planeCount_eq_sum, neighborCount_eq_sum, hbits]

end Sys2Proof.Machine
end

section
/-!
SUPPORT. The rule, the threshold detector and ADVANCE (43_transition sections 1 to 3): the detector as the rule at every position,
the next generation cell by cell, TIME over a run of commands, and the obligations that follow.
-/

namespace Sys2Proof.Machine

open Sys2Proof.Safety

variable {s t : State} {i : Instr} {prog : List Instr} {g : List Row} {nbh : Neighborhood} {w h x y : Nat}

/-! ### The rule and the detector (R260 to R264) -/

theorem lifeRule_dead (n : Nat) : lifeRule false n = decide (n = 3) := by
  simp [lifeRule, beq_eq_decide]

theorem lifeRule_alive (n : Nat) : lifeRule true n = decide (n = 2 ∨ n = 3) := by
  simp [lifeRule, beq_eq_decide, Bool.or_comm]

/-- Settles O39: the two halves of the rule, and its table by evaluation. -/
theorem ruleTable : Obligations.RuleTable := ⟨lifeRule_dead, lifeRule_alive, rfl, rfl⟩

/-- Settles O40: at each position the masks say which of the two counts there is, and the detector takes the case of the
row's bit. -/
theorem detectorAppliesTheRule : Obligations.DetectorAppliesTheRule := by
  intro c ps x hx
  rw [detector_bit c _ rfl rfl x hx, counter_eq2_bit, counter_eq3_bit, decide_eq_true hx, Bool.true_and, Bool.true_and,
    lifeRule]
  cases c.bit x with
  | false => simp
  | true => simp [Bool.or_comm]

/-! ### The next generation (R265) -/

/-- The next row holds the rule of each cell and its neighbor count. -/
theorem nextRow_bit (hg : ∀ r ∈ g, r.count = w) (hl : g.length = h) (hx : x < w) (hy : y < h) :
    (nextRow nbh g w h y).bit x = lifeRule (gridCell g w x y) (neighborCount nbh g w h x y) := by
  obtain ⟨-, hcount, -⟩ := planesSumToTheNeighborCount nbh g w h hl hg x y hx hy
  have hrow : (gridRow g w y).count = w := gridRow_count g w y hg
  have hdet := detectorAppliesTheRule (gridRow g w y) (planes nbh g w h y) x (hrow.symm ▸ hx)
  rwa [hrow, hcount] at hdet

theorem gridRow_nextRows (hy : y < h) : gridRow (nextRows nbh g w h) w y = nextRow nbh g w h y := by
  simp [gridRow, nextRows, hy]

/-- ADVANCE as a host command that uses the row port (R266, R272). -/
theorem execAdvance_usedRows (hrun : Running s) (hl : s.time.toNat < s.timeLimit) :
    exec .advance s = .next (s.usedRows (nextRows s.nbh s.mem.g s.w s.h) (s.time + 1) 0 0) :=
  execAdvance_done hrun.2 hrun.1 hl

/-- Settles O29, by the completion of ADVANCE and the bits of the next rows. -/
theorem advanceComputesNextGeneration : Obligations.AdvanceComputesNextGeneration := by
  intro s ⟨hp, hm, _⟩ hrun hl
  have hfit := gridFits_of_storageWf hm
  refine ⟨_, execAdvance_usedRows hrun hl, fun x y hx hy => ?_, time_add_one_toNat hp hl, scratchInvalid_usedRows,
    storageWf_usedRows hm hfit.nextRows, sameRegisters_usedRows, rfl⟩
  change (gridRow (nextRows s.nbh s.mem.g s.w s.h) s.w y).bit x = _
  rw [gridRow_nextRows hy, nextRow_bit hfit.2 hfit.1 hx hy, lifeRule]

/-- Settles O30: at the limit the check of TIME fails. -/
theorem advanceAtTimeLimitFaults : Obligations.AdvanceAtTimeLimitFaults := fun _ hrun hlim =>
  ⟨_, execAdvance_overflow hrun.2 hrun.1 hlim.not_lt, rfl⟩

/-! ### Runs without a fault (R274, R304) -/

/-- No command ends the fault state. -/
theorem Effect.faulted_of_faulted (he : Effect i s t) (hf : s.faulted = true) : t.faulted = true := by
  cases he with
  | stopped h => exact h.faulted_eq
  | answered x ht => simpa [ht] using hf
  | constructed w h nbh hi hc hw hh ht => simpa [ht] using hf
  | wroteRow d v k hv ht => simpa [ht] using hf
  | readBit b ht => simpa [ht] using hf
  | usedRows g τ k x hc hg hτ ht => simpa [ht] using hf

/-- No command ends the grid. -/
theorem Effect.created_of_created (he : Effect i s t) (hc : s.created = true) : t.created = true := by
  cases he with
  | stopped h =>
    obtain ⟨hsame, -⟩ := h.sameShape
    exact hsame.trans hc
  | answered x ht => simpa [ht] using hc
  | constructed w h nbh hi hc hw hh ht => simp [ht]
  | wroteRow d v k hv ht => simpa [ht] using hc
  | readBit b ht => simpa [ht] using hc
  | usedRows g τ k x _ hg hτ ht => simpa [ht] using hc

theorem Effect.not_faulted_before (he : Effect i s t) (hf : t.faulted = false) : s.faulted = false :=
  Bool.eq_false_of_not_eq_true fun hs => by simp [he.faulted_of_faulted hs] at hf

theorem eq_advance_of_opcode (h : i.opcode = .advance) : i = .advance := by
  cases i with
  | advance => rfl
  | _ => exact absurd h nofun

/-- A command other than CREATE and CLEAR that leaves no fault counts TIME up exactly if it is ADVANCE. -/
theorem exec_time_of_not_faulted (hp : s.params.Legal) (htime : TimeWf s) (hcreate : i.opcode ≠ .create)
    (hclear : i.opcode ≠ .clear) (hx : exec i s = .next t) (hf : t.faulted = false) :
    t.time.toNat = s.time.toNat + if i = .advance then 1 else 0 := by
  have he : Effect i s t := exec_effect hx
  by_cases hi : i = .advance
  · subst hi
    simpa [hf] using execAdvance_time hp htime (he.not_faulted_before hf) hx
  · rw [he.time_eq hcreate hclear (mt eq_advance_of_opcode hi), if_neg hi, Nat.add_zero]

/-- A program without CREATE and CLEAR runs to its end; if no fault shows there, there was none before, and TIME has counted
the ADVANCEs: by induction on the program. -/
theorem runProgram_time (hp : s.params.Legal) (htime : TimeWf s) (hc : s.created = true)
    (hprog : ∀ i ∈ prog, i.opcode ≠ .create ∧ i.opcode ≠ .clear) :
    ∃ t, runProgram prog s = .next t ∧ t.created = true ∧
      (t.faulted = false → s.faulted = false ∧ t.time.toNat = s.time.toNat + prog.count .advance) := by
  induction prog generalizing s with
  | nil => exact ⟨s, rfl, hc, fun hf => ⟨hf, rfl⟩⟩
  | cons i prog ih =>
    obtain ⟨⟨hcreate, hclear⟩, hrest⟩ := List.forall_mem_cons.1 hprog
    obtain ⟨s', _, hx, -⟩ := exec_answers i s
    have he : Effect i s s' := exec_effect hx
    obtain ⟨t, hrun, hct, hend⟩ := ih (he.params_eq ▸ hp) (he.timeWf hp htime) (he.created_of_created hc) hrest
    refine ⟨t, by rw [runProgram, hx]; exact hrun, hct, fun hf => ?_⟩
    obtain ⟨hf', htt⟩ := hend hf
    refine ⟨he.not_faulted_before hf', ?_⟩
    rw [htt, exec_time_of_not_faulted hp htime hcreate hclear hx hf', List.count_cons]
    simp only [beq_iff_eq]
    omega

/-- Settles O31, by the induction on the program and the completion of READ_GEN. -/
theorem timeCountsTheAdvances : Obligations.TimeCountsTheAdvances := by
  intro prog s hp htime hrun hprog
  obtain ⟨t, hx, hct, hend⟩ := runProgram_time hp htime hrun.1 hprog
  exact ⟨t, hx, fun hf => ⟨(hend hf).2, _, readRegister_done ⟨hct, hf⟩ t.time, rfl⟩⟩

end Sys2Proof.Machine
end

section
/-!
SUPPORT. The row microprograms (43_transition section 4): row commands whose destination is a scratch slot, as a log of the rows
they leave there; the planes, the networks and the detector as such programs; and the obligations that follow.
-/

namespace Sys2Proof.Machine

open Sys2Proof.Safety

variable {s t : State} {e src : Slot} {p : List Instr} {ρ σ : Slot → Option Row} {b : Bool} {u v r : Row}
  {rows : List (Nat × Row)} {i j n y : Nat}

/-! ### What a program leaves in the scratch slots -/

/-- The slots hold the rows `ρ` in G and N, and in T the rows of the log, whose first entry for a slot is its latest; the
rows of the log have count `n`. -/
structure Holds (n : Nat) (σ ρ : Slot → Option Row) (rows : List (Nat × Row)) : Prop where
  outside : ∀ e, e.space ≠ .t → σ e = ρ e
  scratch : ∀ i r, rows.lookup i = some r → σ (slotT i) = some r
  count : ∀ i r, rows.lookup i = some r → r.count = n

/-- The program runs from `s` without a fault and leaves the rows `ρ` in G and N and those of the log in T. -/
def LeavesScratch (s : State) (p : List Instr) (ρ : Slot → Option Row) (rows : List (Nat × Row)) : Prop :=
  ∃ σ b, Leaves s p σ b ∧ Holds s.w σ ρ rows

/-- The row a slot is known to hold. -/
def knownRow (ρ : Slot → Option Row) (rows : List (Nat × Row)) (e : Slot) : Option Row :=
  match e.space with
  | .t => rows.lookup e.index
  | .g | .n => ρ e

theorem Holds.nil : Holds n ρ ρ [] := ⟨fun _ _ => rfl, nofun, nofun⟩

theorem lookup_cons_of_ne (hij : i ≠ j) : ((j, v) :: rows).lookup i = rows.lookup i := by
  rw [List.lookup_cons, beq_eq_false_iff_ne.2 hij]

/-- An entry of a log is the first one, or one further down for another slot. -/
theorem lookup_cons_cases (h : ((j, v) :: rows).lookup i = some r) :
    (i = j ∧ v = r) ∨ (i ≠ j ∧ rows.lookup i = some r) := by
  by_cases hij : i = j
  · subst hij
    rw [List.lookup_cons_self] at h
    exact .inl ⟨rfl, Option.some.inj h⟩
  · exact .inr ⟨hij, lookup_cons_of_ne hij ▸ h⟩

/-- A row written to a scratch slot is a new entry of the log. -/
theorem Holds.write (h : Holds n σ ρ rows) (i : Nat) (hv : v.count = n) :
    Holds n (Function.update σ (slotT i) (some v)) ρ ((i, v) :: rows) := by
  refine ⟨fun e he => ?_, fun j r hr => ?_, fun j r hr => ?_⟩
  · rw [Function.update_of_ne (fun h => he (congrArg Slot.space h)), h.outside e he]
  · rcases lookup_cons_cases hr with ⟨rfl, rfl⟩ | ⟨hne, hr⟩
    · exact Function.update_self ..
    · rw [Function.update_of_ne (fun h => hne (congrArg Slot.index h)), h.scratch j r hr]
  · rcases lookup_cons_cases hr with ⟨-, rfl⟩ | ⟨-, hr⟩
    · exact hv
    · exact h.count j r hr

theorem mem_of_lookup {rows : List (Nat × Row)} (h : rows.lookup i = some r) : (i, r) ∈ rows := by
  obtain ⟨l₁, l₂, rfl, -⟩ := List.lookup_eq_some_iff.1 h
  exact List.mem_append_right l₁ List.mem_cons_self

/-- A log of fewer slots. -/
theorem Holds.forget {rows' : List (Nat × Row)} (h : Holds n σ ρ rows)
    (hsub : ∀ q ∈ rows', rows.lookup q.1 = some q.2) : Holds n σ ρ rows' :=
  ⟨h.outside, fun i r hr => h.scratch i r (hsub _ (mem_of_lookup hr)), fun i r hr => h.count i r (hsub _ (mem_of_lookup hr))⟩

/-- A row written to an N slot leaves the scratch slots. -/
theorem Holds.store (h : Holds n σ ρ rows) (y : Nat) (v : Row) :
    Holds n (Function.update σ (slotN y) (some v)) (Function.update ρ (slotN y) (some v)) rows := by
  refine ⟨fun e he => ?_, fun i r hr => ?_, h.count⟩
  · rw [Function.update_apply, Function.update_apply, h.outside e he]
  · rw [Function.update_of_ne (by simp [slotN, slotT]), h.scratch i r hr]

theorem Holds.known (h : Holds n σ ρ rows) (hr : knownRow ρ rows e = some r) : σ e = some r := by
  obtain ⟨sp, j⟩ := e
  cases sp with
  | t => exact h.scratch j r hr
  | g | n => rw [h.outside _ (by simp)]; exact hr

/-! ### Slots and counts of the rows a program leaves -/

/-- A slot that holds a row exists (R130). -/
theorem not_missing_of_read (hm : StorageWf s) (hr : s.mem.read e = some r) : ¬SlotMissing s e := by
  obtain ⟨hg, -, hn, -, ht, -⟩ := (Memory.wf_iff ..).1 hm
  have hhas := Memory.has_of_read _ _ _ hr
  obtain ⟨sp, j⟩ := e
  cases sp <;> simpa [SlotMissing, Memory.has, hg, hn, ht] using hhas

theorem After.missing_iff (h : After s t ρ b) : SlotMissing t e ↔ SlotMissing s e := by
  obtain ⟨-, -, hh, -, -, -, -, -, hp, -, -⟩ := h.registers
  simp only [SlotMissing, State.h, hh, hp]

theorem Leaves.not_missing (h : Leaves s p ρ b) (hr : ρ e = some r) : ¬SlotMissing s e := by
  obtain ⟨t, -, ht⟩ := h
  obtain ⟨-, hm, -⟩ := ht.inv
  exact mt ht.missing_iff.2 (not_missing_of_read hm (ht.rows ▸ hr))

/-- The eleven scratch slots of the microprograms exist (R12). -/
theorem Leaves.scratch_not_missing (h : Leaves s p ρ b) (hi : i < 11) : ¬SlotMissing s (slotT i) := by
  obtain ⟨t, -, ht⟩ := h
  obtain ⟨⟨-, -, -, -, -, hnt, -⟩, -⟩ := ht.inv
  have hnum : 11 ≤ s.params.numScratch := by
    obtain ⟨-, -, -, -, -, -, -, -, hp, -⟩ := ht.registers
    rwa [← hp]
  simpa [SlotMissing, slotT] using hi.trans_le hnum

/-- A grid row has count WIDTH, on the way as well. -/
theorem Leaves.count_of_not_scratch (h : Leaves s p ρ b) (he : e.space ≠ .t) (hr : ρ e = some r) : r.count = s.w := by
  obtain ⟨t, -, ht⟩ := h
  obtain ⟨-, hm, -⟩ := ht.inv
  rw [← ht.w_eq]
  exact (Memory.wf_read _ _ _ _ _ hm e r (ht.rows ▸ hr)).2 he

/-- A row the program is known to leave: the slot holds it and it has count WIDTH. -/
theorem Leaves.known (h : Leaves s p σ b) (hs : Holds s.w σ ρ rows) (hr : knownRow ρ rows e = some r) :
    σ e = some r ∧ r.count = s.w := by
  have hread := hs.known hr
  refine ⟨hread, ?_⟩
  obtain ⟨sp, j⟩ := e
  cases sp with
  | t => exact hs.count j r hr
  | g | n => exact h.count_of_not_scratch (by simp) hread

/-! ### The row commands on scratch slots -/

theorem LeavesScratch.replace (h : LeavesScratch s p ρ rows) (cmd : Slot → Slot → Instr) (op : Row → Row)
    (hi : ∀ d src t, exec (cmd d src) t = replaceRow op d src t) (hop : ∀ r, (op r).count = r.count) (hd : i < 11)
    (hv : knownRow ρ rows src = some v) : LeavesScratch s (p ++ [cmd (slotT i) src]) ρ ((i, op v) :: rows) := by
  obtain ⟨σ, b, hp, hs⟩ := h
  obtain ⟨hread, hcount⟩ := hp.known hs hv
  exact ⟨_, b, hp.replace cmd op (hi _ _) (hp.scratch_not_missing hd) (hp.not_missing hread) hread (absurd rfl ·),
    hs.write i ((hop v).trans hcount)⟩

theorem LeavesScratch.combine (h : LeavesScratch s p ρ rows) (cmd : Slot → Slot → Instr) (op : Row → Row → Row)
    (hi : ∀ d src t, exec (cmd d src) t = combineRows op d src t) (hop : ∀ a b, (op a b).count = a.count) 
    (hu : rows.lookup i = some u) (hv : knownRow ρ rows src = some v) :
    LeavesScratch s (p ++ [cmd (slotT i) src]) ρ ((i, op u v) :: rows) := by
  obtain ⟨σ, b, hp, hs⟩ := h
  obtain ⟨hreadU, hcountU⟩ := hp.known (e := slotT i) hs hu
  obtain ⟨hreadV, hcountV⟩ := hp.known hs hv
  exact ⟨_, b, hp.combine cmd op (hi _ _) (hp.not_missing hreadU) (hp.not_missing hreadV) hreadU hreadV
    (hcountU.trans hcountV.symm), hs.write i ((hop u v).trans hcountU)⟩

theorem LeavesScratch.copy (h : LeavesScratch s p ρ rows) (hd : i < 11) (hv : knownRow ρ rows src = some v) :
    LeavesScratch s (p ++ [.rowCopy (slotT i) src]) ρ ((i, v) :: rows) :=
  h.replace .rowCopy (fun r => r) (fun _ _ _ => rfl) (fun _ => rfl) hd hv

theorem LeavesScratch.not (h : LeavesScratch s p ρ rows) (hd : i < 11) (hv : knownRow ρ rows src = some v) :
    LeavesScratch s (p ++ [.rowNot (slotT i) src]) ρ ((i, v.not) :: rows) :=
  h.replace .rowNot Row.not (fun _ _ _ => rfl) Row.not_count hd hv

theorem LeavesScratch.and (h : LeavesScratch s p ρ rows) (hu : rows.lookup i = some u)
    (hv : knownRow ρ rows src = some v) : LeavesScratch s (p ++ [.rowAnd (slotT i) src]) ρ ((i, u.and v) :: rows) :=
  h.combine .rowAnd Row.and (fun _ _ _ => rfl) Row.and_count hu hv

theorem LeavesScratch.or (h : LeavesScratch s p ρ rows) (hu : rows.lookup i = some u)
    (hv : knownRow ρ rows src = some v) : LeavesScratch s (p ++ [.rowOr (slotT i) src]) ρ ((i, u.or v) :: rows) :=
  h.combine .rowOr Row.or (fun _ _ _ => rfl) Row.or_count hu hv

theorem LeavesScratch.xor (h : LeavesScratch s p ρ rows) (hu : rows.lookup i = some u)
    (hv : knownRow ρ rows src = some v) : LeavesScratch s (p ++ [.rowXor (slotT i) src]) ρ ((i, u.xor v) :: rows) :=
  h.combine .rowXor Row.xor (fun _ _ _ => rfl) Row.xor_count hu hv

/-- The copy of a scratch row into the next-generation buffer. -/
theorem LeavesScratch.store (h : LeavesScratch s p ρ rows) (hy : y < s.h) (hv : rows.lookup i = some v) :
    LeavesScratch s (p ++ [.rowCopy (slotN y) (slotT i)]) (Function.update ρ (slotN y) (some v)) rows := by
  obtain ⟨σ, b, hp, hs⟩ := h
  obtain ⟨hread, hcount⟩ := hp.known (e := slotT i) hs hv
  exact ⟨_, b, hp.replace .rowCopy (fun r => r) (fun _ => rfl) (by simpa [SlotMissing, slotN] using hy)
    (hp.not_missing hread) hread (fun _ => hcount), hs.store y v⟩

theorem LeavesScratch.forget {rows' : List (Nat × Row)} (h : LeavesScratch s p ρ rows)
    (hsub : ∀ q ∈ rows', rows.lookup q.1 = some q.2) : LeavesScratch s p ρ rows' := by
  obtain ⟨σ, b, hp, hs⟩ := h
  exact ⟨σ, b, hp, hs.forget hsub⟩

/-- ROW_ROTL1 of a grid row (R106, R221). -/
theorem LeavesScratch.rotl1 (h : LeavesScratch s p ρ rows) (hw : 0 < s.w) (hd : i < 11) (hv : ρ (slotG j) = some v) :
    LeavesScratch s (p ++ (Pseudo.rotl1 (slotT i) (slotG j) s.w).expand) ρ ((i, v.west) :: rows) := by
  obtain ⟨σ, b, hp, hs⟩ := h
  obtain ⟨hread, hcount⟩ := hp.known (e := slotG j) hs hv
  rw [← hcount] at hw ⊢
  exact ⟨_, _, hp.rotl1 (hp.scratch_not_missing hd) (hp.not_missing hread) hread hw (absurd rfl ·) (by simp [slotG, slotT]),
    hs.write i hcount⟩

/-- ROW_ROTR1 of a grid row (R106, R221). -/
theorem LeavesScratch.rotr1 (h : LeavesScratch s p ρ rows) (hw : 0 < s.w) (hd : i < 11) (hv : ρ (slotG j) = some v) :
    LeavesScratch s (p ++ (Pseudo.rotr1 (slotT i) (slotG j) s.w).expand) ρ ((i, v.east) :: rows) := by
  obtain ⟨σ, b, hp, hs⟩ := h
  obtain ⟨hread, hcount⟩ := hp.known (e := slotG j) hs hv
  rw [← hcount] at hw ⊢
  exact ⟨_, _, hp.rotr1 (hp.scratch_not_missing hd) (hp.not_missing hread) hread hw (absurd rfl ·) (by simp [slotG, slotT]),
    hs.write i hcount⟩

/-- ROW_HA on scratch slots (R106). -/
theorem LeavesScratch.ha {a c x y : Nat} (h : LeavesScratch s p ρ rows) (hd : a < 11 ∧ c < 11)
    (hx : rows.lookup x = some u) (hy : rows.lookup y = some v) (hne : x ≠ a ∧ y ≠ a ∧ y ≠ c) :
    LeavesScratch s (p ++ (Pseudo.ha (slotT a) (slotT c) (slotT x) (slotT y)).expand) ρ
      ((c, (halfAdder u v).carry) :: (a, (halfAdder u v).sum) :: rows) := by
  obtain ⟨σ, b, hp, hs⟩ := h
  obtain ⟨hreadX, hcountX⟩ := hp.known (e := slotT x) hs hx
  obtain ⟨hreadY, hcountY⟩ := hp.known (e := slotT y) hs hy
  have hex : ∀ e ∈ [slotT a, slotT c, slotT x, slotT y], ¬SlotMissing s e := by
    simp only [List.forall_mem_cons]
    exact ⟨hp.scratch_not_missing hd.1, hp.scratch_not_missing hd.2, hp.not_missing hreadX, hp.not_missing hreadY, nofun⟩
  have hleaves := hp.ha hex hreadX hreadY (hcountX.trans hcountY.symm) (fun _ _ _ => hcountX)
    (by simp [slotT, hne]) (by simp [slotT, hne]) (by simp [slotT, hne])
  exact ⟨_, b, hleaves, (hs.write a (v := (halfAdder u v).sum) hcountX).write c (v := (halfAdder u v).carry) hcountX⟩

/-- ROW_FA on scratch slots (R106). -/
theorem LeavesScratch.fa {a c x y z k : Nat} (h : LeavesScratch s p ρ rows) (hd : a < 11 ∧ c < 11 ∧ k < 11)
    (hx : rows.lookup x = some u) (hy : rows.lookup y = some v) (hz : rows.lookup z = some r)
    (hadm : (Pseudo.fa (slotT a) (slotT c) (slotT x) (slotT y) (slotT z) (slotT k)).admissible = true) :
    LeavesScratch s
      (p ++ (Pseudo.fa (slotT a) (slotT c) (slotT x) (slotT y) (slotT z) (slotT k)).expand) ρ
      ((a, (fullAdder u v r).sum) :: (c, (fullAdder u v r).carry) :: (k, (u.xor v).and r) :: rows) := by
  obtain ⟨σ, b, hp, hs⟩ := h
  obtain ⟨hreadX, hcountX⟩ := hp.known (e := slotT x) hs hx
  obtain ⟨hreadY, hcountY⟩ := hp.known (e := slotT y) hs hy
  obtain ⟨hreadZ, hcountZ⟩ := hp.known (e := slotT z) hs hz
  have hex : ∀ e ∈ [slotT a, slotT c, slotT x, slotT y, slotT z, slotT k], ¬SlotMissing s e := by
    obtain ⟨ha, hc, hk⟩ := hd
    simp only [List.forall_mem_cons]
    exact ⟨hp.scratch_not_missing ha, hp.scratch_not_missing hc, hp.not_missing hreadX, hp.not_missing hreadY,
      hp.not_missing hreadZ, hp.scratch_not_missing hk, nofun⟩
  have hleaves := hp.fa hex hreadX hreadY hreadZ (hcountX.trans hcountY.symm) (hcountY.trans hcountZ.symm)
    (fun _ _ _ => hcountX) hadm
  have hk := hs.write k (v := (u.xor v).and r) hcountX
  have hc := hk.write c (v := (fullAdder u v r).carry) hcountX
  exact ⟨_, b, hleaves, hc.write a (v := (fullAdder u v r).sum) hcountX⟩

/-! ### The planes (steps 1 to 26 of R280, 1 to 10 of R281) -/

section
variable {P C S : Row} {ym yp : Nat}

/-- The eight planes of a row (R222). -/
theorem LeavesScratch.moore_planes (h : LeavesScratch s p ρ []) (hw : 0 < s.w) (hP : ρ (slotG ym) = some P)
    (hC : ρ (slotG y) = some C) (hS : ρ (slotG yp) = some S) :
    LeavesScratch s (p ++ moorePlanesProgram ym y yp s.w) ρ
      [(7, S.east), (6, S), (5, S.west), (4, C.east), (3, C.west), (2, P.east), (1, P), (0, P.west)] := by
  have h0 := h.rotl1 (i := 0) hw (by decide) hP
  have h1 := h0.copy (i := 1) (by decide) (src := slotG ym) hP
  have h2 := h1.rotr1 (i := 2) hw (by decide) hP
  have h3 := h2.rotl1 (i := 3) hw (by decide) hC
  have h4 := h3.rotr1 (i := 4) hw (by decide) hC
  have h5 := h4.rotl1 (i := 5) hw (by decide) hS
  have h6 := h5.copy (i := 6) (by decide) (src := slotG yp) hS
  have h7 := h6.rotr1 (i := 7) hw (by decide) hS
  simpa only [moorePlanesProgram, List.append_assoc] using h7

/-- The four planes of a row (R223). -/
theorem LeavesScratch.vonNeumann_planes (h : LeavesScratch s p ρ []) (hw : 0 < s.w) (hP : ρ (slotG ym) = some P)
    (hC : ρ (slotG y) = some C) (hS : ρ (slotG yp) = some S) :
    LeavesScratch s (p ++ vonNeumannPlanesProgram ym y yp s.w) ρ [(3, S), (2, C.east), (1, C.west), (0, P)] := by
  have h0 := h.copy (i := 0) (by decide) (src := slotG ym) hP
  have h1 := h0.rotl1 (i := 1) hw (by decide) hC
  have h2 := h1.rotr1 (i := 2) hw (by decide) hC
  have h3 := h2.copy (i := 3) (by decide) (src := slotG yp) hS
  simpa only [vonNeumannPlanesProgram, List.append_assoc] using h3

end

/-! ### The networks (steps 27 to 69 of R280, 11 to 27 of R281) -/

/-- The last four commands of both networks: `k & ones` into `T[8]` and `~ones & k` into `T[9]`. -/
theorem LeavesScratch.masks {k o : Row} {m : Masks} (h : LeavesScratch s p ρ rows) (hk : rows.lookup i = some k)
    (ho : rows.lookup j = some o) (hi : i ≠ 8 ∧ i ≠ 9) (hj : j ≠ 8)
    (hm : m = { eq2 := k.and o.not, eq3 := k.and o }) :
    LeavesScratch s (p ++ [.rowCopy (slotT 8) (slotT i), .rowAnd (slotT 8) (slotT j), .rowNot (slotT 9) (slotT j),
      .rowAnd (slotT 9) (slotT i)]) ρ [(9, m.eq2), (8, m.eq3)] := by
  have hcount : o.count = k.count := by
    obtain ⟨σ, b, hp, hs⟩ := h
    exact (hs.count j o ho).trans (hs.count i k hk).symm
  have hcopy := h.copy (i := 8) (src := slotT i) (by decide) hk
  have heq3 := hcopy.and (i := 8) (src := slotT j) rfl (v := o) (by simp [knownRow, slotT, lookup_cons_of_ne hj, ho])
  have hnot := heq3.not (i := 9) (src := slotT j) (by decide) (v := o) (by simp [knownRow, slotT, lookup_cons_of_ne hj, ho])
  have heq2 := hnot.and (i := 9) (src := slotT i) rfl (v := k)
    (by simp [knownRow, slotT, lookup_cons_of_ne hi.1, lookup_cons_of_ne hi.2, hk])
  rw [Row.and_comm_of_count o.not k hcount] at heq2
  subst hm
  have hlast := heq2.forget (rows' := [(9, k.and o.not), (8, k.and o)]) (by simp [List.lookup])
  simpa only [List.append_assoc, List.cons_append, List.nil_append] using hlast

section
variable {a0 a1 a2 a3 a4 a5 a6 a7 : Row}

/-- The 8-neighbor network leaves its masks. -/
theorem LeavesScratch.moore_masks
    (h : LeavesScratch s p ρ [(7, a7), (6, a6), (5, a5), (4, a4), (3, a3), (2, a2), (1, a1), (0, a0)]) :
    LeavesScratch s (p ++ mooreNetworkProgram) ρ
      [(9, (mooreNetwork a0 a1 a2 a3 a4 a5 a6 a7).eq2), (8, (mooreNetwork a0 a1 a2 a3 a4 a5 a6 a7).eq3)] := by
  have hl0 := h.fa (a := 8) (c := 9) (x := 0) (y := 1) (z := 2) (k := 10) (by decide) rfl rfl rfl (by decide)
  have hl1 := hl0.fa (a := 0) (c := 1) (x := 3) (y := 4) (z := 5) (k := 10) (by decide) rfl rfl rfl (by decide)
  have hl2 := hl1.ha (a := 2) (c := 3) (x := 6) (y := 7) (by decide) rfl rfl (by decide)
  have hones := hl2.fa (a := 4) (c := 5) (x := 8) (y := 0) (z := 2) (k := 10) (by decide) rfl rfl rfl (by decide)
  have htu := hones.fa (a := 6) (c := 7) (x := 9) (y := 1) (z := 3) (k := 10) (by decide) rfl rfl rfl (by decide)
  have hxor := htu.xor (i := 6) (src := slotT 5) rfl rfl
  have hnot := hxor.not (i := 10) (src := slotT 7) (by decide) rfl
  have hk1 := hnot.and (i := 6) (src := slotT 10) rfl rfl
  rw [Row.and_comm_of_count _ _ (by rfl)] at hk1
  have hmasks := hk1.masks (m := mooreNetwork a0 a1 a2 a3 a4 a5 a6 a7) (i := 6) (j := 4) rfl rfl (by decide) (by decide) rfl
  simpa only [mooreNetworkProgram, List.append_assoc, List.cons_append, List.nil_append] using hmasks

/-- The 4-neighbor network leaves its masks. -/
theorem LeavesScratch.vonNeumann_masks (h : LeavesScratch s p ρ [(3, a3), (2, a2), (1, a1), (0, a0)]) :
    LeavesScratch s (p ++ vonNeumannNetworkProgram) ρ
      [(9, (vonNeumannNetwork a0 a1 a2 a3).eq2), (8, (vonNeumannNetwork a0 a1 a2 a3).eq3)] := by
  have hl0 := h.fa (a := 4) (c := 5) (x := 0) (y := 1) (z := 2) (k := 10) (by decide) rfl rfl rfl (by decide)
  have hones := hl0.ha (a := 6) (c := 7) (x := 4) (y := 3) (by decide) rfl rfl (by decide)
  have hk1 := hones.xor (i := 5) (src := slotT 7) rfl rfl
  have hmasks := hk1.masks (m := vonNeumannNetwork a0 a1 a2 a3) (i := 5) (j := 6) rfl rfl (by decide) (by decide) rfl
  simpa only [vonNeumannNetworkProgram, List.append_assoc, List.cons_append, List.nil_append] using hmasks

end

/-! ### The detector (steps 70 to 76 of R280, 28 to 34 of R281) -/

/-- The detector leaves the next row in N. -/
theorem LeavesScratch.next_row {C : Row} {m : Masks} (h : LeavesScratch s p ρ [(9, m.eq2), (8, m.eq3)])
    (hC : ρ (slotG y) = some C) (hy : y < s.h) :
    LeavesScratch s (p ++ detectorProgram y) (Function.update ρ (slotN y) (some (detector C m))) [] := by
  have hcount : m.eq2.count = C.count := by
    obtain ⟨σ, b, hp, hs⟩ := h
    exact (hs.count 9 m.eq2 rfl).trans (hp.known (e := slotG y) hs hC).2.symm
  have hdead := h.not (i := 0) (src := slotG y) (by decide) hC
  have hborn := hdead.and (i := 0) (src := slotT 8) rfl rfl
  have heq2 := hborn.copy (i := 1) (src := slotT 9) (by decide) rfl
  have heither := heq2.or (i := 1) (src := slotT 8) rfl rfl
  have hsurvive := heither.and (i := 1) (src := slotG y) rfl hC
  rw [Row.and_comm_of_count (m.eq2.or m.eq3) C hcount] at hsurvive
  have hnext := hsurvive.or (i := 0) (src := slotT 1) rfl rfl
  have hstore := (hnext.store hy (i := 0) rfl).forget (rows' := []) nofun
  simpa only [detectorProgram, List.append_assoc, List.cons_append, List.nil_append, detector] using hstore

/-! ### The microprogram of a row (R280, R281) -/

/-- The reference networks over the planes of a row meet the counter (R228, R230, R231). -/
theorem networkOf_eq_counter (nbh : Neighborhood) {P C S : Row} (hP : P.count = n) (hC : C.count = n) (hS : S.count = n) :
    networkOf nbh P C S = counter n (planesOf nbh P C S) := by
  cases nbh with
  | moore => exact mooreNetwork_eq_counter _ _ _ _ _ _ _ _ hP hC hS
  | vonNeumann => exact vonNeumannNetwork_eq_counter _ _ _ _ hP

/-- The detector on the reference network's masks gives the next row. -/
theorem nextRow_eq_detector_networkOf {g : List Row} {w : Nat} (nbh : Neighborhood) (hg : ∀ r ∈ g, r.count = w) (h y : Nat) :
    nextRow nbh g w h y =
      detector (gridRow g w y) (networkOf nbh (northRow g w h y) (gridRow g w y) (southRow g w h y)) := by
  have hrow j : (gridRow g w j).count = w := gridRow_count g w j hg
  have hnorth : (northRow g w h y).count = w := hrow _
  have hsouth : (southRow g w h y).count = w := hrow _
  rw [networkOf_eq_counter nbh hnorth (hrow y) hsouth, nextRow, planes]

/-- The microprogram of row `y`, run where the G slots hold the grid, leaves the next row in `N[y]`. -/
theorem LeavesScratch.row_program {g : List Row} (h : LeavesScratch s p ρ []) (hw : 0 < s.w) (hg : ∀ r ∈ g, r.count = s.w)
    (hG : ∀ j < s.h, ρ (slotG j) = some (gridRow g s.w j)) (hy : y < s.h) :
    LeavesScratch s (p ++ rowProgram s.nbh s.w s.h y)
      (Function.update ρ (slotN y) (some (nextRow s.nbh g s.w s.h y))) [] := by
  have hC := hG y hy
  have hP : ρ (slotG (wrap ((y : Int) - 1) s.h)) = some (northRow g s.w s.h y) :=
    hG _ (wrap_lt ((y : Int) - 1) s.h (Nat.zero_lt_of_lt hy))
  have hS : ρ (slotG (wrap ((y : Int) + 1) s.h)) = some (southRow g s.w s.h y) :=
    hG _ (wrap_lt ((y : Int) + 1) s.h (Nat.zero_lt_of_lt hy))
  rw [nextRow_eq_detector_networkOf s.nbh hg]
  cases s.nbh with
  | moore =>
    have hmasks := (h.moore_planes hw hP hC hS).moore_masks
    simpa only [rowProgram, mooreRowProgram, List.append_assoc, networkOf] using hmasks.next_row hC hy
  | vonNeumann =>
    have hmasks := (h.vonNeumann_planes hw hP hC hS).vonNeumann_masks
    simpa only [rowProgram, vonNeumannRowProgram, List.append_assoc, networkOf] using hmasks.next_row hC hy

theorem leavesScratch_nil (hinv : Inv s) (hrun : Running s) : LeavesScratch s [] s.mem.read [] :=
  ⟨_, _, leaves_nil hinv hrun, Holds.nil⟩

/-- The number of commands of a row microprogram (R276, R280, R281). -/
theorem rowProgram_length (nbh : Neighborhood) (w h y : Nat) :
    (rowProgram nbh w h y).length = match nbh with | .moore => 76 | .vonNeumann => 34 := by
  cases nbh <;> rfl

/-- Settles O32, by the stages of the microprogram. -/
theorem rowMicroprogramsComputeNextRow : Obligations.RowMicroprogramsComputeNextRow := by
  intro s y hinv hrun hy
  obtain ⟨-, hm, ⟨hdim, -⟩, -⟩ := id hinv
  obtain ⟨hw, -⟩ := hdim hrun.1
  have hfit := gridFits_of_storageWf hm
  obtain ⟨σ, b, ⟨t, hx, ht⟩, hs⟩ := (leavesScratch_nil hinv hrun).row_program hw hfit.2
    (fun j hj => Memory.read_g s.mem s.w j (hfit.1 ▸ hj)) hy
  refine ⟨rowProgram_length .., t, hx, ?_, fun e he hne => ?_, ht.registers⟩
  · rw [ht.rows, hs.outside _ (by simp)]
    exact Function.update_self ..
  · rw [ht.rows, hs.outside e he]
    exact Function.update_of_ne hne ..

/-! ### The reference ADVANCE sequence (R282) -/

/-- The rows after the microprograms of the first `n` rows: the next rows in N, the other slots as in `s`. -/
def firstRowsDone (s : State) (n : Nat) : Slot → Option Row := fun e =>
  if e.space = .n ∧ e.index < n then some (nextRow s.nbh s.mem.g s.w s.h e.index) else s.mem.read e

theorem firstRowsDone_zero (s : State) : firstRowsDone s 0 = s.mem.read := by
  funext e
  simp [firstRowsDone]

theorem firstRowsDone_slotG (s : State) (n j : Nat) : firstRowsDone s n (slotG j) = s.mem.read (slotG j) := by
  simp [firstRowsDone, slotG]

theorem firstRowsDone_succ (s : State) (n : Nat) :
    Function.update (firstRowsDone s n) (slotN n) (some (nextRow s.nbh s.mem.g s.w s.h n)) = firstRowsDone s (n + 1) := by
  funext e
  rw [Function.update_apply]
  by_cases he : e = slotN n
  · subst he
    simp [firstRowsDone, slotN]
  · have hidx : e.space = .n → e.index ≠ n := fun hsp hj => he (by rw [slotN, ← hsp, ← hj])
    have hlt : (e.space = .n ∧ e.index < n) ↔ (e.space = .n ∧ e.index < n + 1) :=
      and_congr_right fun hsp => by have := hidx hsp; omega
    simp only [if_neg he, firstRowsDone, hlt]

/-- The microprograms of the first `n` rows, by induction on the rows done (R269). -/
theorem leavesScratch_firstRows (hinv : Inv s) (hrun : Running s) (hn : n ≤ s.h) :
    LeavesScratch s ((List.range n).flatMap fun y => rowProgram s.nbh s.w s.h y) (firstRowsDone s n) [] := by
  obtain ⟨-, hm, ⟨hdim, -⟩, -⟩ := id hinv
  obtain ⟨hw, -⟩ := hdim hrun.1
  have hfit := gridFits_of_storageWf hm
  induction n with
  | zero => rw [firstRowsDone_zero]; exact leavesScratch_nil hinv hrun
  | succ n ih =>
    have hG : ∀ j < s.h, firstRowsDone s n (slotG j) = some (gridRow s.mem.g s.w j) := fun j hj =>
      (firstRowsDone_slotG s n j).trans (Memory.read_g s.mem s.w j (hfit.1 ▸ hj))
    have hnext := (ih (by omega)).row_program hw hfit.2 hG hn
    rw [firstRowsDone_succ] at hnext
    rwa [List.range_succ, List.flatMap_append, List.flatMap_singleton]

/-! The row commands but ROW_RANDOM take no free values. -/

/-- A row command that draws nothing (R44). -/
def drawsNothing (i : Instr) : Bool := decide (i.opcode.port = .row ∧ i.opcode ≠ .rowRandom)

theorem Stopped.draws_eq (hst : Stopped s t) : t.draws = s.draws := by
  cases hst with
  | turnedAway _ ht => simp [ht]
  | fault _ f ht => simp [ht]

theorem exec_draws {i : Instr} (hi : drawsNothing i = true) (h : exec i s = .next t) : t.draws = s.draws := by
  cases i with
  | rowCreate d n =>
    rcases createRow_cases _ _ _ _ h with hst | ⟨-, -, -, -, -, rfl⟩
    · exact hst.draws_eq
    · rfl
  | rowGet d j =>
    rcases execRowGet_cases _ _ h with hst | ⟨-, -, -, r, -, -, rfl⟩
    · exact hst.draws_eq
    · rfl
  | rowSet d j v =>
    rcases execRowSet_cases _ _ _ h with hst | ⟨-, -, -, r, -, -, rfl⟩
    · exact hst.draws_eq
    · rfl
  | rowClear d =>
    rcases execRowClear_cases _ h with hst | ⟨-, -, -, r, -, rfl⟩
    · exact hst.draws_eq
    · rfl
  | rowAnd d src | rowOr d src | rowXor d src =>
    rcases combineRows_cases _ _ _ h with hst | ⟨-, -, -, -, u, v, -, -, -, rfl⟩
    · exact hst.draws_eq
    · rfl
  | rowNot d src | rowCopy d src =>
    rcases replaceRow_cases _ _ _ h with hst | ⟨-, -, -, -, v, -, -, rfl⟩
    · exact hst.draws_eq
    · rfl
  | rowShl d k | rowShr d k =>
    rcases shiftRow_cases _ _ _ h with hst | ⟨-, -, -, r, -, -, rfl⟩
    · exact hst.draws_eq
    · rfl
  | _ => exact absurd hi Bool.false_ne_true

theorem runProgram_draws (hp : p.all drawsNothing = true) (h : runProgram p s = .next t) : t.draws = s.draws := by
  induction p generalizing s with
  | nil => cases h; rfl
  | cons i p ih =>
    rw [List.all_cons, Bool.and_eq_true] at hp
    obtain ⟨hi, hrest⟩ := hp
    obtain ⟨s', _, hx, -⟩ := exec_answers i s
    rw [runProgram, hx] at h
    exact (ih hrest h).trans (exec_draws hi hx)

theorem rowProgram_drawsNothing (nbh : Neighborhood) (w h y : Nat) :
    (rowProgram nbh w h y).all drawsNothing = true := by
  cases nbh <;> rfl

theorem usedRows_congr {g : List Row} {τ : BitVec 64} {k : Nat} {val : Word} (hreg : SameRegisters s t)
    (hdraws : t.draws = s.draws) (hn : t.mem.n.length = s.mem.n.length) (ht : t.mem.t.length = s.mem.t.length) :
    t.usedRows g τ k val = s.usedRows g τ k val := by
  have hmem : (t.mem.setGrid g).dropScratch = (s.mem.setGrid g).dropScratch := by
    simp [Memory.dropScratch, Memory.setGrid, invalidated, List.map_const', hn, ht]
  obtain ⟨h1, h2, h3, h4, -, h6, h7, h8, h9, h10, h11⟩ := hreg
  simp only [State.usedRows, State.setResponse, State.endRowUse, State.takeDraws, State.setBreg, State.setMem,
    State.setTime, hmem, hdraws, h1, h2, h3, h4, h6, h7, h8, h9, h10, h11]

/-- The rows of N where every slot is valid. -/
theorem gridOfN_eq {row : Nat → Row} (hlen : t.mem.n.length = n) (hread : ∀ y < n, t.mem.read (slotN y) = some (row y)) :
    gridOfN t = (List.range n).map row := by
  refine List.ext_getElem (by simp [gridOfN, hlen]) fun y hy _ => ?_
  have hlt : y < t.mem.n.length := by simpa [gridOfN] using hy
  have hrow : t.mem.n[y]?.join = some (row y) := hread y (hlen ▸ hlt)
  have hget : t.mem.n[y] = some (row y) := by simpa [hlt] using hrow
  simp [gridOfN, hget]

theorem commit_setResponse (s : State) (g : List Row) :
    (s.commit g).setResponse ⟨true, 0⟩ = s.usedRows g (s.time + 1) 0 0 := rfl

/-- The microprograms of all rows leave a state that commits as ADVANCE does: N holds the next rows, and the registers, the
number of free values and the number of slots are the same. -/
theorem runProgram_advance (hinv : Inv s) (hrun : Running s) :
    ∃ t, runProgram (realisation .advance s) s = .next t ∧
      (t.commit (gridOfN t)).setResponse ⟨true, 0⟩ = s.usedRows (nextRows s.nbh s.mem.g s.w s.h) (s.time + 1) 0 0 := by
  obtain ⟨σ, b, ⟨t, hx, ht⟩, hs⟩ := leavesScratch_firstRows hinv hrun le_rfl
  have hdraws : t.draws = s.draws := runProgram_draws (by simp [rowProgram_drawsNothing]) hx
  have hN : ∀ y < s.h, t.mem.read (slotN y) = some (nextRow s.nbh s.mem.g s.w s.h y) := fun y hy => by
    rw [ht.rows, hs.outside _ (by simp [slotN])]
    simp [firstRowsDone, slotN, hy]
  obtain ⟨-, hm, -⟩ := hinv
  obtain ⟨-, hmt, -⟩ := ht.inv
  obtain ⟨-, -, hn, -, hnt, -⟩ := (Memory.wf_iff ..).1 hm
  obtain ⟨-, -, hn', -, hnt', -⟩ := (Memory.wf_iff ..).1 hmt
  obtain ⟨-, -, hheight, -, htime, -, -, -, hparams, -⟩ := id ht.registers
  rw [State.h, hheight, ← State.h] at hn'
  rw [hparams] at hnt'
  refine ⟨t, hx, ?_⟩
  rw [commit_setResponse, gridOfN_eq hn' hN, htime, nextRows]
  exact usedRows_congr ht.registers hdraws (hn'.trans hn.symm) (hnt'.trans hnt.symm)

theorem whenCreated_congr {k k' : Result} (h : Running s → k = k') : whenCreated s k = whenCreated s k' := by
  by_cases hrun : Running s
  · rw [h hrun]
  · cases hf : s.faulted with
    | true => rw [whenCreated, whenCreated, whenRunning_neg _ hf, whenRunning_neg _ hf]
    | false =>
      have hc : ¬s.created = true := fun hc => hrun ⟨hc, hf⟩
      rw [whenCreated, whenCreated, require_neg _ _ _ hc, require_neg _ _ _ hc]

theorem require_congr {c : Prop} [Decidable c] {f : FaultCode} {k k' : Result} (h : c → k = k') :
    require c f s k = require c f s k' := by
  by_cases hc : c
  · rw [h hc]
  · rw [require_neg _ _ _ hc, require_neg _ _ _ hc]

/-- Settles O33: behind the checks, which are ADVANCE's own, by what the microprograms of all rows leave. -/
theorem referenceAdvanceIsAdvance : Obligations.ReferenceAdvanceIsAdvance := by
  intro s hinv
  refine whenCreated_congr fun hrun => require_congr fun hl => ?_
  obtain ⟨t, hx, hcommit⟩ := runProgram_advance hinv hrun
  simp only [hx]
  exact congrArg Host.Outcome.next hcommit

end Sys2Proof.Machine
end

section
/-!
SUPPORT. Faults and the fault state (60_exceptions R304 to R306): entering the fault state writes the fault record and the
response only, in it every word leaves a response and nothing else, and the obligations that follow.
-/

namespace Sys2Proof.Machine

open Sys2Proof.Safety

variable {s t : State} {i : Instr} {p : Port} {w : Word}

/-! ### Entering the fault state (R304) -/

/-- Of the effects of a command only a fault sets FAULTED. -/
theorem Effect.enterFault_of_faulted (he : Effect i s t) (hs : s.faulted = false) (ht : t.faulted = true) :
    ∃ f, t = s.enterFault f := by
  cases he with
  | stopped h =>
    cases h with
    | turnedAway hf _ => exact absurd (hs.symm.trans hf) nofun
    | fault _ f heq => exact ⟨f, heq⟩
  | answered x heq => simp [heq, hs] at ht
  | constructed w h nbh _ _ _ _ heq => simp [heq, hs] at ht
  | wroteRow d v k _ heq => simp [heq, hs] at ht
  | readBit b heq => simp [heq, hs] at ht
  | usedRows g τ k x _ _ _ heq => simp [heq, hs] at ht

/-- A word after which the block is in the fault state, and was not before, has entered it. -/
theorem runAccepted_enterFault {a : Accepted} (hs : a.state.faulted = false) (h : runAccepted a = .next t)
    (ht : t.faulted = true) : ∃ f, t = a.state.enterFault f := by
  obtain ⟨i, he⟩ := runAccepted_effect h
  exact he.enterFault_of_faulted hs ht

/-- Settles O13: the word runs on the state that has accepted it, and the latch of that state is what fault entry saves. -/
theorem faultsArePrecise : Obligations.FaultsArePrecise := by
  intro s t w rest hs h ht
  refine ⟨fun hin => ?_, fun hin => ?_⟩
  · rw [step_hostWord hin] at h
    obtain ⟨f, rfl⟩ := runAccepted_enterFault hs h ht
    exact ⟨f, rfl, rfl⟩
  · rw [step_rowWord hin] at h
    obtain ⟨f, rfl⟩ := runAccepted_enterFault hs h ht
    exact ⟨f, rfl, rfl⟩

/-! ### In the fault state (R305) -/

/-- Every command but the two status reads checks the fault state before anything else (R310 step 3). -/
theorem exec_checks_running (hstatus : i.opcode ≠ .readStatus) (hfcmd : i.opcode ≠ .readFcmd) (s : State) :
    ∃ r, exec i s = whenRunning s r := by
  cases i with
  | readStatus => exact absurd rfl hstatus
  | readFcmd => exact absurd rfl hfcmd
  | _ => exact ⟨_, rfl⟩

theorem exec_turnedAway (hf : s.faulted = true) (hstatus : i.opcode ≠ .readStatus) (hfcmd : i.opcode ≠ .readFcmd) :
    exec i s = .next s.turnedAway := by
  obtain ⟨r, hexec⟩ := exec_checks_running hstatus hfcmd s
  rw [hexec, whenRunning_neg r hf]

/-- A word is turned away in the fault state unless it decodes to one of the two status reads. -/
theorem runAccepted_turnedAway (hf : s.faulted = true)
    (hdec : ∀ i, decode p w = .ok i → i.opcode ≠ .readStatus ∧ i.opcode ≠ .readFcmd) :
    runAccepted ⟨p, w, s⟩ = .next s.turnedAway := by
  cases h : decode p w with
  | ok i =>
    obtain ⟨hstatus, hfcmd⟩ := hdec i h
    rw [runAccepted_ok h, exec_turnedAway hf hstatus hfcmd]
  | error f => rw [runAccepted_error h, decodeFault, whenRunning_neg _ hf]

/-- No row word is a status read: both belong to the host port (R98; log 7). -/
theorem runAccepted_row_turnedAway (hf : s.faulted = true) (w : Word) :
    runAccepted ⟨.row, w, s⟩ = .next s.turnedAway := by
  refine runAccepted_turnedAway hf fun i hdec => ?_
  have hport : i.opcode.port = .row := port_of_decode hdec
  exact ⟨fun h => by simp [h, Opcode.port] at hport, fun h => by simp [h, Opcode.port] at hport⟩

theorem eq_readStatus_of_opcode (h : i.opcode = .readStatus) : i = .readStatus := by
  cases i with
  | readStatus => rfl
  | _ => exact absurd h nofun

theorem eq_readFcmd_of_opcode (h : i.opcode = .readFcmd) : i = .readFcmd := by
  cases i with
  | readFcmd => rfl
  | _ => exact absurd h nofun

/-- The response to a host word in the fault state (R305). -/
def faultedResponse (w : Word) (s : State) : Response :=
  if decode .host w = .ok .readStatus then ⟨true, statusWord s⟩
  else if decode .host w = .ok .readFcmd then ⟨true, s.fcmd⟩
  else ⟨false, s.fcode.setWidth 64⟩

/-- In the fault state a host word leaves its response and nothing else. -/
theorem runAccepted_host_faulted (hf : s.faulted = true) (w : Word) :
    runAccepted ⟨.host, w, s⟩ = .next (s.setResponse (faultedResponse w s)) := by
  unfold faultedResponse
  split_ifs with hstatus hfcmd
  · exact runAccepted_ok hstatus
  · exact runAccepted_ok hfcmd
  · refine runAccepted_turnedAway hf fun i hdec => ⟨fun h => hstatus ?_, fun h => hfcmd ?_⟩
    · rw [hdec, eq_readStatus_of_opcode h]
    · rw [hdec, eq_readFcmd_of_opcode h]

/-- Only the reset input ends the fault state. -/
theorem step_faulted_of_faulted (hf : s.faulted = true) (h : step s = .next t) (hreset : resetNext s = false) :
    t.faulted = true := by
  rcases step_effect h with rfl | ⟨htrue, -⟩ | ⟨i, rest, w, he⟩
  · exact hf
  · exact absurd (hreset.symm.trans htrue) nofun
  · exact he.faulted_of_faulted hf

/-- Settles O14, by the port the word arrives at, and for a step by its effects. -/
theorem faultStateRefusesCommands : Obligations.FaultStateRefusesCommands := by
  intro s hf
  refine ⟨fun w rest hin => ?_, fun w rest hin => ?_, fun i hstatus hfcmd => ?_, fun t => step_faulted_of_faulted hf⟩
  · refine ⟨_, (step_hostWord hin).trans (runAccepted_host_faulted (s := s.accepting rest w) hf w), ?_⟩
    unfold faultedResponse
    split_ifs <;> rfl
  · exact ⟨_, (step_rowWord hin).trans (runAccepted_row_turnedAway (s := s.accepting rest s.hostWord) hf w), rfl⟩
  · exact ⟨_, exec_turnedAway hf hstatus hfcmd, rfl⟩

/-! ### Runs in the fault state (R306) -/

/-- A host word sent in the fault state leaves the block in it and changes nothing the host observes (R51). -/
theorem hostCommand_faulted (hf : s.faulted = true) (w : Word) :
    ∃ t, hostCommand w s = .next t ∧ t.faulted = true ∧ observe t = observe s :=
  ⟨_, (hostCommand_eq w s).trans (runAccepted_host_faulted (s := s.accepting [] w) hf w), hf, rfl⟩

/-- Settles O15, by induction on the host words. -/
theorem faultedRunsObserveNoChange : Obligations.FaultedRunsObserveNoChange := by
  intro ws
  induction ws with
  | nil => exact fun s hf => ⟨s, [], rfl, hf, rfl⟩
  | cons w ws ih =>
    intro s hf
    obtain ⟨s', hx, hf', hobs'⟩ := hostCommand_faulted hf w
    obtain ⟨t, rs, hrun, hft, hobs⟩ := ih s' hf'
    exact ⟨t, s'.response :: rs, by simp [hostRun, hx, hrun], hft, hobs.trans hobs'⟩

end Sys2Proof.Machine
end

section
/-!
PROOFS. The reset input (70_reset R340): between two commands and during one it leaves the same state, with the values of
R49.
-/

namespace Sys2Proof.Machine

/-- Settles O2: both reset events lead to `applyReset` of the state with the later events pending, which holds the values of
R49; a reset during a command leaves nothing of the command's word. -/
theorem resetInputClearsTheMachine : Obligations.ResetInputClearsTheMachine := by
  intro s w rest
  have hbetween : step { s with inbox := .reset :: rest } = .next { s with inbox := rest }.applyReset := step_reset rfl
  have hduring : step { s with inbox := .resetDuring w :: rest } = .next { s with inbox := rest }.applyReset :=
    step_resetDuring rfl
  exact ⟨_, hbetween, hduring, resetValues_applyReset, State.applyReset_response _, State.applyReset_params _,
    State.applyReset_inbox _⟩

end Sys2Proof.Machine
end
